-- ==== Sys2Proof/Machine/Constants.lean ====
section
/-! DEFINITION. Every width, bit position, constant and scale of the wire format, each in this one place under a name of its
own (00_scope.md R4, 70_reset_and_hazards.md R212). The words (Word.lean), the operands, the decoder, the encoder, the checks
and the dispatch table (Machine/Table.lean) are all written from these names, so a corrected value changes one
definition here. `FloatEnc` and `TS_W` are open and have no value (log entries 3 and 4). -/

namespace Sys2Proof.Config

/-! ### Widths (00_scope.md R4) -/

/-- `ID_PORT_W`, the width of the identifier input. -/
@[simp] abbrev idPortW : Nat := 32

/-- `ID_W`, the width of a legal identifier. -/
@[simp] abbrev idW : Nat := 29

/-- `PRIO_W`, the width of the priority. -/
@[simp] abbrev prioW : Nat := 3

/-- `PGN_W`, the width of the PGN field. -/
@[simp] abbrev pgnW : Nat := 18

/-- `PGN_REG_W`, the width of `msg.pgn`, which holds the PGN zero-extended. -/
@[simp] abbrev pgnRegW : Nat := 32

/-- `SRC_W`, the width of the source address. -/
@[simp] abbrev srcW : Nat := 8

/-- `LEN_PORT_W`, the width of the length input. -/
@[simp] abbrev lenPortW : Nat := 8

/-- `NBYTES`, the bytes in the frame buffer. -/
@[simp] abbrev nBytes : Nat := 8

/-- `PAYLOAD_W`, the width of the payload scalar. -/
@[simp] abbrev payloadW : Nat := 64

/-- The width of a byte of the frame buffer (20_memory.md R45). -/
@[simp] abbrev byteW : Nat := 8

/-- `N_HANDLERS`, the entries of the dispatch table. -/
@[simp] abbrev nHandlers : Nat := 2

/-! ### Widths of the accumulator fields (10_state.md R22, R24) -/

/-- `grainFlow`, a count of hundredths. -/
@[simp] abbrev grainFlowW : Nat := 16

/-- `grainMoisture`, a count of hundredths. -/
@[simp] abbrev grainMoistureW : Nat := 16

/-- `headerWidth`, millimetres. -/
@[simp] abbrev headerWidthW : Nat := 16

/-- `headerRows`, a count. -/
@[simp] abbrev headerRowsW : Nat := 8

/-- `rowSpacing`, centimetres. -/
@[simp] abbrev rowSpacingW : Nat := 8

/-! ### The status word and the output ports (10_state.md R28, R34, R35, R37) -/

/-- The bits of `STATUS`. -/
@[simp] abbrev statusW : Nat := 2

/-- The bit of `ERR_ID`. -/
@[simp] abbrev errIdBit : Nat := 0

/-- The bit of `ERR_LEN`. -/
@[simp] abbrev errLenBit : Nat := 1

/-- The bits of `RES.kind`. -/
@[simp] abbrev resKindW : Nat := 3

/-- The bits of `RES.handler`. -/
@[simp] abbrev resHandlerW : Nat := 1

/-- The bits of an update mask, one for each accumulator field. -/
@[simp] abbrev maskW : Nat := 5

/-- The bits of `SNAP`, the five fields side by side. -/
@[simp] abbrev snapW : Nat := rowSpacingW + headerRowsW + headerWidthW + grainMoistureW + grainFlowW

/-- The index of the grain-flow entry, as `RES.handler` shows it. -/
@[simp] def gfHandler : BitVec resHandlerW := 0

/-- The index of the header-info entry. -/
@[simp] def hiHandler : BitVec resHandlerW := 1

/-! ### Lowest bits of the fields of the identifier (30_encoding.md R71) -/

/-- `source` is `id[7:0]`. -/
@[simp] abbrev idSourceLo : Nat := 0

/-- `pgn` is `id[25:8]`. -/
@[simp] abbrev idPgnLo : Nat := 8

/-- `priority` is `id[28:26]`. -/
@[simp] abbrev idPriorityLo : Nat := 26

/-! ### Fields of the grain-flow payload, lowest bit and width (30_encoding.md R74) -/

/-- `opcode16` is `payload[15:0]`. -/
@[simp] abbrev gfOpcodeLo : Nat := 0
/-- See `gfOpcodeLo`. -/
@[simp] abbrev gfOpcodeW : Nat := 16

/-- `flow_raw` is `payload[31:16]`. -/
@[simp] abbrev gfFlowLo : Nat := 16
/-- See `gfFlowLo`. -/
@[simp] abbrev gfFlowW : Nat := 16

/-- `moist_raw` is `payload[47:32]`. -/
@[simp] abbrev gfMoistureLo : Nat := 32
/-- See `gfMoistureLo`. -/
@[simp] abbrev gfMoistureW : Nat := 16

/-- The ignored bits are `payload[63:48]`. -/
@[simp] abbrev gfIgnoredLo : Nat := 48
/-- See `gfIgnoredLo`. -/
@[simp] abbrev gfIgnoredW : Nat := 16

/-! ### Fields of the header-info payload, lowest bit and width (30_encoding.md R75) -/

/-- `opcode8` is `payload[7:0]`. -/
@[simp] abbrev hiOpcodeLo : Nat := 0
/-- See `hiOpcodeLo`. -/
@[simp] abbrev hiOpcodeW : Nat := 8

/-- `width_mm` is `payload[23:8]`. -/
@[simp] abbrev hiWidthLo : Nat := 8
/-- See `hiWidthLo`. -/
@[simp] abbrev hiWidthW : Nat := 16

/-- The ignored bits are `payload[47:24]`. -/
@[simp] abbrev hiIgnoredLo : Nat := 24
/-- See `hiIgnoredLo`. -/
@[simp] abbrev hiIgnoredW : Nat := 24

/-- `rows` is `payload[55:48]`. -/
@[simp] abbrev hiRowsLo : Nat := 48
/-- See `hiRowsLo`. -/
@[simp] abbrev hiRowsW : Nat := 8

/-- `spacing_cm` is `payload[63:56]`. -/
@[simp] abbrev hiSpacingLo : Nat := 56
/-- See `hiSpacingLo`. -/
@[simp] abbrev hiSpacingW : Nat := 8

/-! ### Words of the three stages (30_encoding.md R77 to R79) -/

/-- The bits of `CTL2`. -/
@[simp] abbrev ctlW : Nat := 2

/-- The bits of `RAW40 = len ++ id`. -/
@[simp] abbrev rawW : Nat := lenPortW + idPortW

/-- The bits of `FW93 = id[28:0] ++ payload`. -/
@[simp] abbrev fwW : Nat := idW + payloadW

/-! ### Rows of stage 0: the bits of `CTL2`, and each row's mask and match (30_encoding.md R77) -/

/-- The bit of `rst`. -/
@[simp] abbrev rstBit : Nat := 1

/-- The bit of `frame_valid`. -/
@[simp] abbrev frameValidBit : Nat := 0

/-- RESET: the mask, which is the match too. -/
def rowReset : BitVec ctlW := 0b10
/-- IDLE: the mask. -/
def maskIdle : BitVec ctlW := 0b11
/-- IDLE: the match. -/
def matchIdle : BitVec ctlW := 0b00

/-! ### Rows of stage 1: the mask, which is the match too (30_encoding.md R78) -/

/-- INVALID_ID.b31. -/
def rowIdB31 : BitVec rawW := 0x0080000000
/-- INVALID_ID.b30. -/
def rowIdB30 : BitVec rawW := 0x0040000000
/-- INVALID_ID.b29. -/
def rowIdB29 : BitVec rawW := 0x0020000000
/-- FRAME_TOO_LONG.b7. -/
def rowLenB7 : BitVec rawW := 0x8000000000
/-- FRAME_TOO_LONG.b6. -/
def rowLenB6 : BitVec rawW := 0x4000000000
/-- FRAME_TOO_LONG.b5. -/
def rowLenB5 : BitVec rawW := 0x2000000000
/-- FRAME_TOO_LONG.b4. -/
def rowLenB4 : BitVec rawW := 0x1000000000
/-- FRAME_TOO_LONG.b3b2. -/
def rowLenB3b2 : BitVec rawW := 0x0C00000000
/-- FRAME_TOO_LONG.b3b1. -/
def rowLenB3b1 : BitVec rawW := 0x0A00000000
/-- FRAME_TOO_LONG.b3b0. -/
def rowLenB3b0 : BitVec rawW := 0x0900000000

/-! ### Values (00_scope.md R4) -/

/-- `MAX_LEN`, the largest legal length. -/
def maxLen : BitVec lenPortW := 8

/-- The largest legal identifier, 2^`ID_W` - 1. -/
def maxId : BitVec idPortW := BitVec.ofNat idPortW (2 ^ idW - 1)

/-- `PGN_GF` = 61184. -/
def pgnGf : BitVec pgnW := 61184

/-- `PGN_HI` = 65535. -/
def pgnHi : BitVec pgnW := 65535

/-- `SRC_GF`: the one source accepted for grain flow, 211. -/
def srcGf : BitVec srcW := 211

/-- `SRC_HI`: the three sources accepted for header info, 211, 234 and 242. -/
def srcHi1 : BitVec srcW := 211
/-- See `srcHi1`. -/
def srcHi2 : BitVec srcW := 234
/-- See `srcHi1`. -/
def srcHi3 : BitVec srcW := 242

/-- `OPC_GF` = 2383 = 0x094F, as 90_conflicts.md C1 resolves it; unsafe, log entry 5. -/
def opcGf : BitVec gfOpcodeW := 2383

/-- `OPC_HI` = 24. -/
def opcHi : BitVec hiOpcodeW := 24

/-- `SCALE_GF`: exactly one hundredth. -/
def scaleGf : Rat := 1 / 100

/-- The header fields are unscaled (42_pgn_dispatcher.md, the descriptor table). -/
def scaleHi : Rat := 1

/-- Every offset is zero (43_signal_decoders.md R128). -/
def noOffset : Rat := 0

end Sys2Proof.Config
end

