-- ==== Sys2Proof/Word.lean ====
section
/-! DEFINITION. The words of the block, by the names the spec gives them (00_scope.md R4).
Every quantity is unsigned (00_scope.md section 6). The widths are those of Machine/Constants.lean. -/

namespace Sys2Proof

open Sys2Proof.Config

/-- One byte of the frame buffer, 8 bits (20_memory.md R45). -/
abbrev Byte := BitVec byteW

/-- The identifier input, `ID_PORT_W` = 32 bits, of which 29 may be non-zero. -/
abbrev CanId := BitVec idPortW

/-- The length input, `LEN_PORT_W` bits (30_encoding.md R70). -/
abbrev Length := BitVec lenPortW

/-- The 18-bit Parameter Group Number, `PGN_W` (40_identifier_decoder.md R97). -/
abbrev Pgn := BitVec pgnW

/-- The PGN as a message carries it, zero-extended to `PGN_REG_W` bits (40_identifier_decoder.md R97). -/
abbrev PgnReg := BitVec pgnRegW

/-- The 8-bit source address, `SRC_W` (40_identifier_decoder.md R98). -/
abbrev SourceAddr := BitVec srcW

/-- The 3-bit priority, `PRIO_W` (40_identifier_decoder.md R96). -/
abbrev Priority := BitVec prioW

/-- The payload scalar, `PAYLOAD_W` = 64 bits (41_payload_assembler.md R105). -/
abbrev Payload := BitVec payloadW

/-- The capture time of a frame. Its width `TS_W` is open and nothing reads it (60_exceptions.md R192), so it is
an abstract number: DESIGN CHOICE, safe, log entry 3. -/
abbrev Timestamp := Nat

end Sys2Proof
end

