-- ==== Sys2Proof/Config.lean ====
section
/-! DEFINITION. What a build of the block fixes: the form of a dispatch table and when it is well formed
(42_pgn_dispatcher.md R116, R120; 20_memory.md R53), and the open parameter FloatEnc (10_state.md R23).
The constants of 00_scope.md R4 stand in Machine/Constants.lean, the two-entry table in Machine/Table.lean. -/

namespace Sys2Proof.Config

/-- The accumulator fields in their index order 0 to 4 (10_state.md R20). -/
inductive Dest where
  | grainFlow
  | grainMoisture
  | headerWidth
  | headerRows
  | rowSpacing
deriving DecidableEq, Repr

/-- The width of the accumulator field (10_state.md R22, R24). -/
def destWidth : Dest → Nat
  | .grainFlow => grainFlowW
  | .grainMoisture => grainMoistureW
  | .headerWidth => headerWidthW
  | .headerRows => headerRowsW
  | .rowSpacing => rowSpacingW

/-- A data field of a handler: the payload bits it is cut from and its transform `raw * scale + offset`
(42_pgn_dispatcher.md R116, 43_signal_decoders.md R128). -/
structure FieldDesc where
  dest : Dest
  start : Nat
  width : Nat
  scale : Rat
  offset : Rat
deriving DecidableEq, Repr

/-- A handler descriptor (43_signal_decoders.md R129). -/
structure Handler where
  key : Pgn
  sources : List SourceAddr
  opcStart : Nat
  opcWidth : Nat
  opcValue : Payload
  fields : List FieldDesc
deriving DecidableEq, Repr

/-- A bit range a field may be cut from: `1 <= width` and `start + width <= PAYLOAD_W` (20_memory.md R53). -/
def rangeWf (start width : Nat) : Bool := decide (1 ≤ width) && decide (start + width ≤ payloadW)

/-- A field descriptor the block may be built with: its range is well formed and fits its register.
That it fits is the model's own condition: DESIGN CHOICE, safe, log entry 10. -/
def fieldWf (d : FieldDesc) : Bool := rangeWf d.start d.width && decide (d.width ≤ destWidth d.dest)

/-- A handler the block may be built with: well-formed ranges, and one descriptor per destination (the latter
DESIGN CHOICE, safe, log entry 10). -/
def handlerWf (h : Handler) : Bool :=
  rangeWf h.opcStart h.opcWidth && h.fields.all fieldWf && decide ((h.fields.map FieldDesc.dest).Nodup)

/-- A table the block may be built with: its handlers are well formed and its keys pairwise different
(42_pgn_dispatcher.md R120). -/
def tableWf (hs : List Handler) : Bool :=
  hs.all handlerWf && decide ((hs.map Handler.key).Nodup)

/-- A dispatch table, an argument of the block fixed when it is built (00_scope.md R5). An ill-formed one is refused
then (93_implementation_defined.md U4): it has no such proof. -/
structure DispatchTable where
  handlers : List Handler
  wf : tableWf handlers = true

/-- The open parameter `FloatEnc`: a total function from the count of hundredths to the reader's float words `α`,
with the three points at which the source constrains it (10_state.md R23). An argument wherever it is used, so no
rounding is chosen: DESIGN CHOICE, safe, log entry 4. -/
structure FloatEnc (α : Type) where
  enc : BitVec grainFlowW → α
  comparesEq : α → Rat → Prop
  zero : comparesEq (enc 0) 0
  fifteen : comparesEq (enc 1500) 15
  twelve : comparesEq (enc 1200) 12

end Sys2Proof.Config
end

