-- ==== Sys2Proof/Machine/Table.lean ====
section
/-! DEFINITION. The dispatch table of this hardware, its descriptors written from the names of Machine/Constants.lean
(42_pgn_dispatcher.md R116). -/

namespace Sys2Proof.Config

/-- Entry 0, Grain Flow, for any value of its opcode (`OPC_GF` is a parameter, 92_eei_decisions.md D5). -/
def grainFlowHandler (opc : BitVec gfOpcodeW) : Handler where
  key := pgnGf
  sources := [srcGf]
  opcStart := gfOpcodeLo
  opcWidth := gfOpcodeW
  opcValue := opc.setWidth payloadW
  fields := [
    { dest := .grainFlow, start := gfFlowLo, width := gfFlowW, scale := scaleGf, offset := noOffset },
    { dest := .grainMoisture, start := gfMoistureLo, width := gfMoistureW, scale := scaleGf, offset := noOffset }]

/-- Entry 1, Header Info. -/
def headerInfoHandler : Handler where
  key := pgnHi
  sources := [srcHi1, srcHi2, srcHi3]
  opcStart := hiOpcodeLo
  opcWidth := hiOpcodeW
  opcValue := opcHi.setWidth payloadW
  fields := [
    { dest := .headerWidth, start := hiWidthLo, width := hiWidthW, scale := scaleHi, offset := noOffset },
    { dest := .headerRows, start := hiRowsLo, width := hiRowsW, scale := scaleHi, offset := noOffset },
    { dest := .rowSpacing, start := hiSpacingLo, width := hiSpacingW, scale := scaleHi, offset := noOffset }]

/-- The dispatch table for any value of the grain-flow opcode. -/
def tableFor (opc : BitVec gfOpcodeW) : DispatchTable where
  handlers := [grainFlowHandler opc, headerInfoHandler]
  wf := rfl

/-- `HANDLERS`, the dispatch table of this hardware (42_pgn_dispatcher.md R116). -/
def table : DispatchTable := tableFor opcGf

end Sys2Proof.Config
end

