-- ==== Sys2Proof/Syntax.lean ====
section
/-! DEFINITION. What is offered at the block's input ports, and the instructions: one constructor per row of
spec/opcode_table.json, its three stages in the table's order (30_encoding.md R77 to R79). -/

namespace Sys2Proof

open Sys2Proof.Config

/-- The frame buffer `FB`: eight bytes, index 0 to 7, the block's one address space (20_memory.md R45).
There is no ninth byte to ask for; log entry 8. -/
structure FrameBuffer where
  b0 : Byte
  b1 : Byte
  b2 : Byte
  b3 : Byte
  b4 : Byte
  b5 : Byte
  b6 : Byte
  b7 : Byte
deriving DecidableEq, Repr

/-- A frame as offered to the block: identifier, length, the eight buffer bytes, capture time (30_encoding.md R70). -/
structure Frame where
  id : CanId
  len : Length
  bytes : FrameBuffer
  ts : Timestamp
deriving DecidableEq, Repr

/-- The input pins of one cycle (45_block_operations.md R160). -/
structure Pins where
  rst : Bool
  frameValid : Bool
  frame : Frame
deriving DecidableEq, Repr

/-- One constructor per row of the opcode table. A constructor's arguments are the bits its row leaves free, and
the transaction inputs that the row's rule reads beside its word (the bytes and the capture time). -/
inductive Instr where
  /-- RESET (R165). -/
  | reset
  /-- IDLE (R164). -/
  | idle
  /-- FRAME (R162): the whole transaction. -/
  | frame (f : Frame)
  /-- INVALID_ID.b31 (R176): `id[31] = 1`. -/
  | invalidIdB31 (id : CanId) (len : Length)
  /-- INVALID_ID.b30 (R176): `id[30] = 1`. -/
  | invalidIdB30 (id : CanId) (len : Length)
  /-- INVALID_ID.b29 (R176): `id[29] = 1`. -/
  | invalidIdB29 (id : CanId) (len : Length)
  /-- FRAME_TOO_LONG.b7 (R177): `len[7] = 1`. -/
  | frameTooLongB7 (id : CanId) (len : Length)
  /-- FRAME_TOO_LONG.b6 (R177): `len[6] = 1`. -/
  | frameTooLongB6 (id : CanId) (len : Length)
  /-- FRAME_TOO_LONG.b5 (R177): `len[5] = 1`. -/
  | frameTooLongB5 (id : CanId) (len : Length)
  /-- FRAME_TOO_LONG.b4 (R177): `len[4] = 1`. -/
  | frameTooLongB4 (id : CanId) (len : Length)
  /-- FRAME_TOO_LONG.b3b2 (R177): `len[3] = 1` and `len[2] = 1`. -/
  | frameTooLongB3b2 (id : CanId) (len : Length)
  /-- FRAME_TOO_LONG.b3b1 (R177): `len[3] = 1` and `len[1] = 1`. -/
  | frameTooLongB3b1 (id : CanId) (len : Length)
  /-- FRAME_TOO_LONG.b3b0 (R177): `len[3] = 1` and `len[0] = 1`. -/
  | frameTooLongB3b0 (id : CanId) (len : Length)
  /-- VALID (R162): a legal identifier and a legal length. -/
  | valid (f : Frame)
  /-- GRAINFLOW (R131): the PGN, source and opcode are fixed, `ignored` is `payload[63:48]`. -/
  | grainflow (priority : Priority) (flowRaw : BitVec gfFlowW) (moistRaw : BitVec gfMoistureW)
      (ignored : BitVec gfIgnoredW) (ts : Timestamp)
  /-- GF.NA_OPCODE (R131). -/
  | gfNaOpcode (priority : Priority) (payload : Payload) (ts : Timestamp)
  /-- GF.NA_SOURCE (R131). -/
  | gfNaSource (priority : Priority) (source : SourceAddr) (payload : Payload) (ts : Timestamp)
  /-- HEADERINFO.S211 (R137): `ignored` is `payload[47:24]`. -/
  | headerinfoS211 (priority : Priority) (widthRaw : BitVec hiWidthW) (ignored : BitVec hiIgnoredW)
      (rowsRaw : BitVec hiRowsW) (spacingRaw : BitVec hiSpacingW) (ts : Timestamp)
  /-- HEADERINFO.S234 (R137). -/
  | headerinfoS234 (priority : Priority) (widthRaw : BitVec hiWidthW) (ignored : BitVec hiIgnoredW)
      (rowsRaw : BitVec hiRowsW) (spacingRaw : BitVec hiSpacingW) (ts : Timestamp)
  /-- HEADERINFO.S242 (R137). -/
  | headerinfoS242 (priority : Priority) (widthRaw : BitVec hiWidthW) (ignored : BitVec hiIgnoredW)
      (rowsRaw : BitVec hiRowsW) (spacingRaw : BitVec hiSpacingW) (ts : Timestamp)
  /-- HI.NA_OPCODE.S211 (R137). -/
  | hiNaOpcodeS211 (priority : Priority) (payload : Payload) (ts : Timestamp)
  /-- HI.NA_OPCODE.S234 (R137). -/
  | hiNaOpcodeS234 (priority : Priority) (payload : Payload) (ts : Timestamp)
  /-- HI.NA_OPCODE.S242 (R137). -/
  | hiNaOpcodeS242 (priority : Priority) (payload : Payload) (ts : Timestamp)
  /-- HI.NA_SOURCE (R137). -/
  | hiNaSource (priority : Priority) (source : SourceAddr) (payload : Payload) (ts : Timestamp)
  /-- IGNORE (R119): the PGN is no key of the table. -/
  | ignore (priority : Priority) (pgn : Pgn) (source : SourceAddr) (payload : Payload) (ts : Timestamp)
deriving DecidableEq, Repr

end Sys2Proof
end

