-- ==== Sys2Proof/Machine/Operands.lean ====
section
/-! DEFINITION. How every operand of a frame is assembled (30_encoding.md R76): the Identifier Decoder, the frame
buffer reads, the Payload Assembler, the bit-field extractor and the scale unit; and how the parts are put together again.
None reads or writes state. -/

namespace Sys2Proof.Machine

open Sys2Proof.Config

/-- The two protocol violations (60_exceptions.md R176, R177). -/
inductive Violation where
  | invalidIdentifier
  | frameTooLong
deriving DecidableEq, Repr

/-- The triple an identifier decodes to; the PGN is zero-extended to the width of `msg.pgn` (40_identifier_decoder.md R97). -/
structure IdTriple where
  priority : Priority
  pgn : PgnReg
  source : SourceAddr
deriving DecidableEq, Repr

/-- `id > 2^29 - 1`, an unsigned comparison (40_identifier_decoder.md R99, R101). -/
def idIllegal (id : CanId) : Bool := decide (maxId < id)

/-- `len > 8`, an unsigned comparison (41_payload_assembler.md R109, R110). -/
def lenIllegal (len : Length) : Bool := decide (maxLen < len)

/-- `(x >> start) & (2^width - 1)`: the `width` bits of a word from bit `start` up, as a word (30_encoding.md R71, R76). -/
def bitField {n : Nat} (x : BitVec n) (start width : Nat) : BitVec n :=
  (x >>> start) &&& BitVec.ofNat n (2 ^ width - 1)

/-- The three formulas of R96, R97 and R98 on the whole input. -/
def idFields (id : CanId) : IdTriple where
  priority := (bitField id idPriorityLo prioW).setWidth prioW
  pgn := (bitField id idPgnLo pgnW).setWidth pgnRegW
  source := (bitField id idSourceLo srcW).setWidth srcW

/-- IDDEC (40_identifier_decoder.md R95). -/
def iddec (id : CanId) : Except Violation IdTriple :=
  if idIllegal id then .error .invalidIdentifier else .ok (idFields id)

/-- `B(j)` of 20_memory.md R48: byte `j` of the buffer, zero at an index at or above the length. -/
def lane (len : Length) (j : Nat) (b : Byte) : Byte := if j < len.toNat then b else 0

/-- The eight lanes of the buffer, index 0 first. -/
def lanes (len : Length) (fb : FrameBuffer) : List Byte :=
  [lane len 0 fb.b0, lane len 1 fb.b1, lane len 2 fb.b2, lane len 3 fb.b3,
   lane len 4 fb.b4, lane len 5 fb.b5, lane len 6 fb.b6, lane len 7 fb.b7]

/-- Bytes read little-endian, the first the least significant (20_memory.md R47). -/
def littleEndian : List Byte → Payload
  | [] => 0
  | b :: bs => b.setWidth payloadW + (littleEndian bs <<< byteW)

/-- `MemRead(i, n)` (20_memory.md R48), for `1 <= n`, `i + n <= 8` and a length of at most 8. It reads nothing but lanes
of the eight bytes there are. -/
def memRead (len : Length) (fb : FrameBuffer) (i n : Nat) : Payload :=
  littleEndian (((lanes len fb).drop i).take n)

/-- PACK (41_payload_assembler.md R105): `MemRead(0, NBYTES)`, or FrameTooLong and no payload. -/
def pack (len : Length) (fb : FrameBuffer) : Except Violation Payload :=
  if lenIllegal len then .error .frameTooLong else .ok (memRead len fb 0 nBytes)

/-- FIELD (43_signal_decoders.md R125). -/
def field (p : Payload) (start width : Nat) : Payload := bitField p start width

/-- SCALE (43_signal_decoders.md R127): the rational `raw / 100`. -/
def scale100 (raw : BitVec grainFlowW) : Rat := (raw.toNat : Rat) * scaleGf

/-- The transform of a data field, `raw * scale + offset` (43_signal_decoders.md R128). -/
def physical (d : FieldDesc) (raw : Payload) : Rat := (raw.toNat : Rat) * d.scale + d.offset

/-! ### The fields of the two payload formats, as bits (30_encoding.md R74, R75) -/

/-- `opcode16`. -/
def gfOpcode (p : Payload) : BitVec gfOpcodeW := p.extractLsb' gfOpcodeLo gfOpcodeW

/-- `flow_raw`. -/
def gfFlow (p : Payload) : BitVec gfFlowW := p.extractLsb' gfFlowLo gfFlowW

/-- `moist_raw`. -/
def gfMoisture (p : Payload) : BitVec gfMoistureW := p.extractLsb' gfMoistureLo gfMoistureW

/-- The bits the grain-flow format ignores. -/
def gfIgnored (p : Payload) : BitVec gfIgnoredW := p.extractLsb' gfIgnoredLo gfIgnoredW

/-- `opcode8`. -/
def hiOpcode (p : Payload) : BitVec hiOpcodeW := p.extractLsb' hiOpcodeLo hiOpcodeW

/-- `width_mm`. -/
def hiWidth (p : Payload) : BitVec hiWidthW := p.extractLsb' hiWidthLo hiWidthW

/-- The bits the header-info format ignores. -/
def hiIgnored (p : Payload) : BitVec hiIgnoredW := p.extractLsb' hiIgnoredLo hiIgnoredW

/-- `rows`. -/
def hiRows (p : Payload) : BitVec hiRowsW := p.extractLsb' hiRowsLo hiRowsW

/-- `spacing_cm`. -/
def hiSpacing (p : Payload) : BitVec hiSpacingW := p.extractLsb' hiSpacingLo hiSpacingW

/-! ### Putting words together -/

/-- A value at a place of a word of `n` bits, its lowest bit at `start`. -/
def place {w : Nat} (n start : Nat) (x : BitVec w) : BitVec n := x.setWidth n <<< start

/-- The payload of a grain-flow message (30_encoding.md R74). -/
def gfPayload (flowRaw : BitVec gfFlowW) (moistRaw : BitVec gfMoistureW) (ignored : BitVec gfIgnoredW) : Payload :=
  place payloadW gfIgnoredLo ignored + place payloadW gfMoistureLo moistRaw + place payloadW gfFlowLo flowRaw +
    place payloadW gfOpcodeLo opcGf

/-- The payload of a header-info message (30_encoding.md R75). -/
def hiPayload (widthRaw : BitVec hiWidthW) (ignored : BitVec hiIgnoredW) (rowsRaw : BitVec hiRowsW)
    (spacingRaw : BitVec hiSpacingW) : Payload :=
  place payloadW hiSpacingLo spacingRaw + place payloadW hiRowsLo rowsRaw + place payloadW hiIgnoredLo ignored +
    place payloadW hiWidthLo widthRaw + place payloadW hiOpcodeLo opcHi

/-- The identifier `(p << 26) | (pgn << 8) | s` of 30_encoding.md R88 and 40_identifier_decoder.md R100. -/
def idWord (priority : Priority) (pgn : Pgn) (source : SourceAddr) : CanId :=
  place idPortW idPriorityLo priority ||| place idPortW idPgnLo pgn ||| place idPortW idSourceLo source

/-- Byte `j` of a payload (20_memory.md R47). -/
def payloadByte (p : Payload) (j : Nat) : Byte := p.extractLsb' (byteW * j) byteW

/-- The buffer whose eight bytes make a payload (20_memory.md R47). -/
def bufferOf (p : Payload) : FrameBuffer where
  b0 := payloadByte p 0
  b1 := payloadByte p 1
  b2 := payloadByte p 2
  b3 := payloadByte p 3
  b4 := payloadByte p 4
  b5 := payloadByte p 5
  b6 := payloadByte p 6
  b7 := payloadByte p 7

end Sys2Proof.Machine
end

