-- ==== Sys2Proof/Decode.lean ====
section
/-! DEFINITION. The decoder: the three words of 30_encoding.md R77, R78, R79, each with its rows in the table's order, the
first row that fits deciding. After it the encoder, written from the same rows, and how an encoded
instruction stands at the input pins. -/

namespace Sys2Proof

open Sys2Proof.Config Sys2Proof.Machine

/-- A row fits a word when `(word & mask) = match` (30_encoding.md section 6). -/
def fits {n : Nat} (w mask value : BitVec n) : Bool := w &&& mask == value

/-! ### Stage 0 -/

/-- `CTL2 = rst ++ frame_valid` (R77). -/
def ctlWord (rst frameValid : Bool) : BitVec ctlW :=
  place ctlW rstBit (BitVec.ofBool rst) ||| place ctlW frameValidBit (BitVec.ofBool frameValid)

/-- Stage 0. The last row is FRAME, mask 0b11, match 0b01: the one word the rows before it leave. -/
def decodeCtl (w : BitVec ctlW) (f : Frame) : Instr :=
  if fits w rowReset rowReset then .reset
  else if fits w maskIdle matchIdle then .idle
  else .frame f

/-! ### Stage 1 -/

/-- `RAW40 = len ++ id` (R78). -/
def rawWord (len : Length) (id : CanId) : BitVec rawW := len ++ id

/-- The identifier part of `RAW40`. -/
def rawId (w : BitVec rawW) : CanId := w.extractLsb' 0 idPortW

/-- The length part of `RAW40`. -/
def rawLen (w : BitVec rawW) : Length := w.extractLsb' idPortW lenPortW

/-- A row of stage 1 fits an identifier, whatever the length; for the rows that test the identifier only. -/
def idFits (row : BitVec rawW) (id : CanId) : Bool := fits (rawWord 0 id) row row

/-- A row of stage 1 fits a length, whatever the identifier; for the rows that test the length only. -/
def lenFits (row : BitVec rawW) (len : Length) : Bool := fits (rawWord len 0) row row

/-- Stage 1, the rows as 30_encoding.md R78 lists them. -/
def decodeRaw (w : BitVec rawW) (fb : FrameBuffer) (ts : Timestamp) : Instr :=
  if fits w rowIdB31 rowIdB31 then .invalidIdB31 (rawId w) (rawLen w)
  else if fits w rowIdB30 rowIdB30 then .invalidIdB30 (rawId w) (rawLen w)
  else if fits w rowIdB29 rowIdB29 then .invalidIdB29 (rawId w) (rawLen w)
  else if fits w rowLenB7 rowLenB7 then .frameTooLongB7 (rawId w) (rawLen w)
  else if fits w rowLenB6 rowLenB6 then .frameTooLongB6 (rawId w) (rawLen w)
  else if fits w rowLenB5 rowLenB5 then .frameTooLongB5 (rawId w) (rawLen w)
  else if fits w rowLenB4 rowLenB4 then .frameTooLongB4 (rawId w) (rawLen w)
  else if fits w rowLenB3b2 rowLenB3b2 then .frameTooLongB3b2 (rawId w) (rawLen w)
  else if fits w rowLenB3b1 rowLenB3b1 then .frameTooLongB3b1 (rawId w) (rawLen w)
  else if fits w rowLenB3b0 rowLenB3b0 then .frameTooLongB3b0 (rawId w) (rawLen w)
  else .valid { id := rawId w, len := rawLen w, bytes := fb, ts := ts }

/-! ### Stage 2 -/

/-- `FW93 = id[28:0] ++ payload`, the identifier put together from its fields (R79). Also how its masks and matches are
written, so that each constant stands in Machine/Constants.lean alone; Tests/Slice0.lean holds them against the
table's hexadecimal. -/
def fwWord (priority : Priority) (pgn : Pgn) (source : SourceAddr) (payload : Payload) : BitVec fwW :=
  (idWord priority pgn source).extractLsb' 0 idW ++ payload

/-- `FW93[92:64]`, the identifier. -/
def fwId (w : BitVec fwW) : CanId := (w.extractLsb' payloadW idW).setWidth idPortW

/-- `FW93[92:90]`. -/
def fwPriority (w : BitVec fwW) : Priority := w.extractLsb' (payloadW + idPriorityLo) prioW

/-- `FW93[89:72]`. -/
def fwPgn (w : BitVec fwW) : Pgn := w.extractLsb' (payloadW + idPgnLo) pgnW

/-- `FW93[71:64]`. -/
def fwSource (w : BitVec fwW) : SourceAddr := w.extractLsb' (payloadW + idSourceLo) srcW

/-- `FW93[63:0]`. -/
def fwPayload (w : BitVec fwW) : Payload := w.extractLsb' 0 payloadW

/-- Mask of a row that tests the PGN only. -/
def maskPgn : BitVec fwW := fwWord 0 (BitVec.allOnes pgnW) 0 0

/-- Mask of a row that tests PGN and source. -/
def maskPgnSource : BitVec fwW := fwWord 0 (BitVec.allOnes pgnW) (BitVec.allOnes srcW) 0

/-- Mask of a row that tests PGN, source and the grain-flow opcode. -/
def maskGf : BitVec fwW :=
  fwWord 0 (BitVec.allOnes pgnW) (BitVec.allOnes srcW) (place payloadW gfOpcodeLo (BitVec.allOnes gfOpcodeW))

/-- Mask of a row that tests PGN, source and the header-info opcode. -/
def maskHi : BitVec fwW :=
  fwWord 0 (BitVec.allOnes pgnW) (BitVec.allOnes srcW) (place payloadW hiOpcodeLo (BitVec.allOnes hiOpcodeW))

/-- Match of GRAINFLOW. -/
def matchGf : BitVec fwW := fwWord 0 pgnGf srcGf (place payloadW gfOpcodeLo opcGf)

/-- Match of the HEADERINFO row of a source. -/
def matchHi (source : SourceAddr) : BitVec fwW := fwWord 0 pgnHi source (place payloadW hiOpcodeLo opcHi)

/-- Stage 2, the rows as 30_encoding.md R79 lists them. -/
def decodeFw (w : BitVec fwW) (ts : Timestamp) : Instr :=
  if fits w maskGf matchGf then
    .grainflow (fwPriority w) (gfFlow (fwPayload w)) (gfMoisture (fwPayload w)) (gfIgnored (fwPayload w)) ts
  else if fits w maskPgnSource (fwWord 0 pgnGf srcGf 0) then .gfNaOpcode (fwPriority w) (fwPayload w) ts
  else if fits w maskPgn (fwWord 0 pgnGf 0 0) then .gfNaSource (fwPriority w) (fwSource w) (fwPayload w) ts
  else if fits w maskHi (matchHi srcHi1) then
    .headerinfoS211 (fwPriority w) (hiWidth (fwPayload w)) (hiIgnored (fwPayload w)) (hiRows (fwPayload w))
      (hiSpacing (fwPayload w)) ts
  else if fits w maskHi (matchHi srcHi2) then
    .headerinfoS234 (fwPriority w) (hiWidth (fwPayload w)) (hiIgnored (fwPayload w)) (hiRows (fwPayload w))
      (hiSpacing (fwPayload w)) ts
  else if fits w maskHi (matchHi srcHi3) then
    .headerinfoS242 (fwPriority w) (hiWidth (fwPayload w)) (hiIgnored (fwPayload w)) (hiRows (fwPayload w))
      (hiSpacing (fwPayload w)) ts
  else if fits w maskPgnSource (fwWord 0 pgnHi srcHi1 0) then .hiNaOpcodeS211 (fwPriority w) (fwPayload w) ts
  else if fits w maskPgnSource (fwWord 0 pgnHi srcHi2 0) then .hiNaOpcodeS234 (fwPriority w) (fwPayload w) ts
  else if fits w maskPgnSource (fwWord 0 pgnHi srcHi3 0) then .hiNaOpcodeS242 (fwPriority w) (fwPayload w) ts
  else if fits w maskPgn (fwWord 0 pgnHi 0 0) then .hiNaSource (fwPriority w) (fwSource w) (fwPayload w) ts
  else .ignore (fwPriority w) (fwPgn w) (fwSource w) (fwPayload w) ts

/-! ### An instruction as its stage's word, with the inputs that stand beside the word -/

/-- An encoded instruction. -/
inductive Coded where
  | ctl (w : BitVec ctlW) (f : Frame)
  | raw (w : BitVec rawW) (fb : FrameBuffer) (ts : Timestamp)
  | fw (w : BitVec fwW) (ts : Timestamp)
deriving DecidableEq, Repr

/-- The decoder, total: every word of each stage is some instruction (R81, R84). -/
def decode : Coded → Instr
  | .ctl w f => decodeCtl w f
  | .raw w fb ts => decodeRaw w fb ts
  | .fw w ts => decodeFw w ts

/-- What the block decodes in one cycle: the control word of its pins (R77). -/
def decodePins (p : Pins) : Instr := decodeCtl (ctlWord p.rst p.frameValid) p.frame

/-- The raw word of a frame. -/
def frameRaw (f : Frame) : BitVec rawW := rawWord f.len f.id

/-- The frame word of a frame: its identifier's low 29 bits and its payload (R79). -/
def frameFw (f : Frame) : BitVec fwW := f.id.extractLsb' 0 idW ++ memRead f.len f.bytes 0 nBytes

/-- The table-driven classifier of a frame: stage 1, and stage 2 where stage 1 says VALID. -/
def classify (f : Frame) : Instr :=
  match decodeRaw (frameRaw f) f.bytes f.ts with
  | .valid g => decodeFw (frameFw g) g.ts
  | j => j

/-! ### The encoder -/

/-- A buffer of zeros. -/
def FrameBuffer.zero : FrameBuffer := ⟨0, 0, 0, 0, 0, 0, 0, 0⟩

/-- A frame of zeros. -/
def Frame.zero : Frame := ⟨0, 0, .zero, 0⟩

/-- The encoder: the word of a well-formed instruction in its own stage. -/
def encode : Instr → Coded
  | .reset => .ctl (ctlWord true false) .zero
  | .idle => .ctl (ctlWord false false) .zero
  | .frame f => .ctl (ctlWord false true) f
  | .invalidIdB31 id len => .raw (rawWord len id) .zero 0
  | .invalidIdB30 id len => .raw (rawWord len id) .zero 0
  | .invalidIdB29 id len => .raw (rawWord len id) .zero 0
  | .frameTooLongB7 id len => .raw (rawWord len id) .zero 0
  | .frameTooLongB6 id len => .raw (rawWord len id) .zero 0
  | .frameTooLongB5 id len => .raw (rawWord len id) .zero 0
  | .frameTooLongB4 id len => .raw (rawWord len id) .zero 0
  | .frameTooLongB3b2 id len => .raw (rawWord len id) .zero 0
  | .frameTooLongB3b1 id len => .raw (rawWord len id) .zero 0
  | .frameTooLongB3b0 id len => .raw (rawWord len id) .zero 0
  | .valid f => .raw (rawWord f.len f.id) f.bytes f.ts
  | .grainflow pr fl mo ig ts => .fw (fwWord pr pgnGf srcGf (gfPayload fl mo ig)) ts
  | .gfNaOpcode pr p ts => .fw (fwWord pr pgnGf srcGf p) ts
  | .gfNaSource pr src p ts => .fw (fwWord pr pgnGf src p) ts
  | .headerinfoS211 pr wd ig ro sp ts => .fw (fwWord pr pgnHi srcHi1 (hiPayload wd ig ro sp)) ts
  | .headerinfoS234 pr wd ig ro sp ts => .fw (fwWord pr pgnHi srcHi2 (hiPayload wd ig ro sp)) ts
  | .headerinfoS242 pr wd ig ro sp ts => .fw (fwWord pr pgnHi srcHi3 (hiPayload wd ig ro sp)) ts
  | .hiNaOpcodeS211 pr p ts => .fw (fwWord pr pgnHi srcHi1 p) ts
  | .hiNaOpcodeS234 pr p ts => .fw (fwWord pr pgnHi srcHi2 p) ts
  | .hiNaOpcodeS242 pr p ts => .fw (fwWord pr pgnHi srcHi3 p) ts
  | .hiNaSource pr src p ts => .fw (fwWord pr pgnHi src p) ts
  | .ignore pr pgn src p ts => .fw (fwWord pr pgn src p) ts

/-- The frame whose frame word is `w`: eight bytes, the identifier's low 29 bits `FW93[92:64]` (log entry 7). -/
def frameOfFw (w : BitVec fwW) (ts : Timestamp) : Frame where
  id := fwId w
  len := maxLen
  bytes := bufferOf (fwPayload w)
  ts := ts

/-- How an encoded instruction is offered at the input pins (log entry 7). -/
def pinsOf : Coded → Pins
  | .ctl w f => { rst := w.getLsbD rstBit, frameValid := w.getLsbD frameValidBit, frame := f }
  | .raw w fb ts => { rst := false, frameValid := true, frame := { id := rawId w, len := rawLen w, bytes := fb, ts := ts } }
  | .fw w ts => { rst := false, frameValid := true, frame := frameOfFw w ts }

/-! ### Words numbered as spec/opcode_table.json numbers them -/

/-- Why a number is no word of the table. -/
inductive WordError where
  /-- No stage has a word of so many bits. -/
  | noSuchWord (nbits : Nat)
  /-- A bit is set above the word of the stage that has so many bits. -/
  | bitsAboveWord (nbits : Nat)
deriving DecidableEq, Repr

/-- A number of bits in whole bytes. -/
def wholeBytes (n : Nat) : Nat := (n + (byteW - 1)) / byteW * byteW

/-- The word of the stage whose width, in whole bytes, takes in `nbits` bits, with zeros for the inputs beside it;
rejected by name where there is none. -/
def codedOfWord (nbits w : Nat) : Except WordError Coded :=
  if nbits ≤ wholeBytes ctlW then
    if w < 2 ^ ctlW then .ok (.ctl (BitVec.ofNat ctlW w) .zero) else .error (.bitsAboveWord nbits)
  else if nbits ≤ wholeBytes rawW then
    if w < 2 ^ rawW then .ok (.raw (BitVec.ofNat rawW w) .zero 0) else .error (.bitsAboveWord nbits)
  else if nbits ≤ wholeBytes fwW then
    if w < 2 ^ fwW then .ok (.fw (BitVec.ofNat fwW w) 0) else .error (.bitsAboveWord nbits)
  else .error (.noSuchWord nbits)

/-- The instruction the decoder reads from a word of the table, none where it refuses. -/
def decodeTableWord (nbits w : Nat) : Option Instr :=
  match codedOfWord nbits w with
  | .ok c => some (decode c)
  | .error _ => none

end Sys2Proof
end

