-- ==== Sys2Proof/Machine/State.lean ====
section
/-! DEFINITION. The state of the block and the values of one step that its outputs show (10_state.md). -/

namespace Sys2Proof.Machine

open Sys2Proof.Config

/-- The accumulator `ACC`, the source's HarvestData: the five fields in index order (10_state.md R20, R22, R24). -/
structure HarvestData where
  /-- Count of hundredths of kg/s. -/
  grainFlow : BitVec grainFlowW
  /-- Count of hundredths of percent. -/
  grainMoisture : BitVec grainMoistureW
  /-- Millimetres. -/
  headerWidth : BitVec headerWidthW
  /-- A count. -/
  headerRows : BitVec headerRowsW
  /-- Centimetres. -/
  rowSpacing : BitVec rowSpacingW
deriving DecidableEq, Repr

/-- The transient CANMessage (10_state.md R31). -/
structure CanMessage where
  pgn : PgnReg
  source : SourceAddr
  priority : Priority
  payload : Payload
  timestamp : Timestamp
deriving DecidableEq, Repr

/-- A partial update (10_state.md R34). A field whose mask bit is clear is absent, so that nothing can be proved from its
value; the mask is read off the fields (`Update.mask`): DESIGN CHOICE, safe, log entry 9. -/
structure Update where
  grainFlow : Option (BitVec grainFlowW)
  grainMoisture : Option (BitVec grainMoistureW)
  headerWidth : Option (BitVec headerWidthW)
  headerRows : Option (BitVec headerRowsW)
  rowSpacing : Option (BitVec rowSpacingW)
deriving DecidableEq, Repr

/-- `RES.kind`, by name; its 3-bit code is `ResKind.code` (10_state.md R35). -/
inductive ResKind where
  | empty
  | updated
  | naPgn
  | naSource
  | naOpcode
  | errInvalidIdentifier
  | errFrameTooLong
deriving DecidableEq, Repr

/-- The result `RES` of a FRAME, IDLE or RESET step (10_state.md R35, 45_block_operations.md R161). -/
structure Res where
  kind : ResKind
  handler : BitVec resHandlerW
  mask : BitVec maskW
deriving DecidableEq, Repr

/-- What an operation puts out (45_block_operations.md R161): a result and perhaps a message, or the copy a snapshot returns. -/
inductive Output where
  | transaction (res : Res) (msg : Option CanMessage)
  | snapshot (snap : HarvestData) (status : BitVec statusW)
deriving DecidableEq, Repr

/-- One operation issued to the block: a cycle of its input pins, or a sample by the reader (20_memory.md R57). -/
inductive Input where
  | cycle (pins : Pins)
  | snap
deriving DecidableEq, Repr

/-- The state. `acc` and `status` are the block's, and all of it (10_state.md R29). `pending`, the operations issued and not yet
taken, oldest first, is the model's place for the environment (log entry 1); `out`, what the last operation put out, is
the model's place for the output ports, read by no operation (log entry 2). -/
structure State where
  acc : HarvestData
  /-- `STATUS`: bit 0 `ERR_ID`, bit 1 `ERR_LEN` (10_state.md R28). -/
  status : BitVec statusW
  pending : List Input
  out : Output
deriving DecidableEq, Repr

/-- No step of this block stops: a protocol violation is a next state (60_exceptions.md R181) and there is no stuck state
(70_reset_and_hazards.md R214). So there is no fault; safe. -/
inductive Fault where
deriving DecidableEq, Repr

/-- Reasons an instruction has no meaning. -/
inductive Refusal where
  /-- Raised by an arm of `exec` whose instruction is not modelled; no arm is such. Safe: nothing can be proved of a step that
  is refused. -/
  | notModelled (mnemonic : String)
deriving DecidableEq, Repr

/-- The accumulator at reset: five zeros (10_state.md R27). -/
def HarvestData.zero : HarvestData := ⟨0, 0, 0, 0, 0⟩

/-- The result of an IDLE or RESET step (45_block_operations.md R164, R165). -/
def Res.empty : Res := ⟨.empty, 0, 0⟩

/-- Right after reset: `S0` (10_state.md R38), the outputs of a RESET step (45_block_operations.md R165), and no operation issued. -/
def State.reset : State where
  acc := .zero
  status := 0b00
  pending := []
  out := .transaction .empty none

end Sys2Proof.Machine
end

