-- ==== Sys2Proof/Machine/Flags.lean ====
section
/-! DEFINITION. The two sticky flags of `STATUS` (10_state.md R28), the only flags the block has, and the codes of the
result port (10_state.md R34, R35). -/

namespace Sys2Proof.Machine

open Sys2Proof.Config

/-- `STATUS.ERR_ID`. -/
def errId (status : BitVec statusW) : Bool := status.getLsbD errIdBit

/-- `STATUS.ERR_LEN`. -/
def errLen (status : BitVec statusW) : Bool := status.getLsbD errLenBit

/-- The status word with `ERR_LEN` and `ERR_ID` as given. -/
def statusWord (len id : Bool) : BitVec statusW :=
  place statusW errLenBit (BitVec.ofBool len) ||| place statusW errIdBit (BitVec.ofBool id)

/-- `ST'` of 45_block_operations.md R161: each flag is set when its condition holds, and stays set. -/
def stickyStatus (status : BitVec statusW) (eId eLen : Bool) : BitVec statusW := status ||| statusWord eLen eId

/-- The code of a result kind (10_state.md R35); code 7 is no kind's. -/
def ResKind.code : ResKind → BitVec resKindW
  | .empty => 0
  | .updated => 1
  | .naPgn => 2
  | .naSource => 3
  | .naOpcode => 4
  | .errInvalidIdentifier => 5
  | .errFrameTooLong => 6

/-- The update mask: bit `i` set when the update carries the field of index `i` (10_state.md R34). -/
def Update.mask (u : Update) : BitVec maskW :=
  BitVec.ofBool u.rowSpacing.isSome ++ BitVec.ofBool u.headerRows.isSome ++ BitVec.ofBool u.headerWidth.isSome ++
    BitVec.ofBool u.grainMoisture.isSome ++ BitVec.ofBool u.grainFlow.isSome

end Sys2Proof.Machine
end

