-- ==== Sys2Proof/Machine/Ops.lean ====
section
/-! DEFINITION. The operations the meanings are made of: dispatch and the generic Signal Decoder
(42_pgn_dispatcher.md R115, R117; 43_signal_decoders.md R129), the merge and the snapshot (44_telemetry_accumulator.md), taking a
protocol violation (60_exceptions.md section 3), and delivering a message. There is no return from a violation (60_exceptions.md R186). -/

namespace Sys2Proof.Machine

open Sys2Proof.Config

/-! ### PGN Dispatcher and Signal Decoders -/

/-- What dispatching a message gives (42_pgn_dispatcher.md R117). `index` is the matched table entry. -/
inductive Verdict where
  | update (index : Nat) (upd : Update)
  | naPgn
  | naSource (index : Nat)
  | naOpcode (index : Nat)
deriving DecidableEq, Repr

/-- The first entry, counted from `k`, whose key equals the PGN; the comparison is of the whole field of `PGN_REG_W` bits (90_conflicts.md C6). -/
def lookupFrom (k : Nat) : List Handler → PgnReg → Option (Nat × Handler)
  | [], _ => none
  | h :: hs, pgn => if h.key.setWidth pgnRegW = pgn then some (k, h) else lookupFrom (k + 1) hs pgn

/-- `lookup(T, pgn)` (42_pgn_dispatcher.md R115). -/
def lookup (t : DispatchTable) (pgn : PgnReg) : Option (Nat × Handler) := lookupFrom 0 t.handlers pgn

/-- The update that carries no field. -/
def Update.none : Update := ⟨Option.none, Option.none, Option.none, Option.none, Option.none⟩

/-- The update with a destination's field present. -/
def Update.carry (u : Update) (d : Dest) (v : Payload) : Update :=
  match d with
  | .grainFlow => { u with grainFlow := some (v.setWidth grainFlowW) }
  | .grainMoisture => { u with grainMoisture := some (v.setWidth grainMoistureW) }
  | .headerWidth => { u with headerWidth := some (v.setWidth headerWidthW) }
  | .headerRows => { u with headerRows := some (v.setWidth headerRowsW) }
  | .rowSpacing => { u with rowSpacing := some (v.setWidth rowSpacingW) }

/-- The update of a payload by a list of field descriptors. -/
def extractFields (p : Payload) (fields : List FieldDesc) : Update :=
  fields.foldl (fun u d => u.carry d.dest (field p d.start d.width)) Update.none

/-- The generic Signal Decoder of entry `index` (43_signal_decoders.md R129): source, then opcode, then the fields. -/
def signalDecode (index : Nat) (h : Handler) (msg : CanMessage) : Verdict :=
  if msg.source ∉ h.sources then .naSource index
  else if field msg.payload h.opcStart h.opcWidth ≠ h.opcValue then .naOpcode index
  else .update index (extractFields msg.payload h.fields)

/-- DISPATCH (42_pgn_dispatcher.md R117), written once over a table (R121). -/
def dispatch (t : DispatchTable) (msg : CanMessage) : Verdict :=
  match lookup t msg.pgn with
  | none => .naPgn
  | some (k, h) => signalDecode k h msg

/-! ### Telemetry Accumulator -/

/-- APPLY (44_telemetry_accumulator.md R150): a field the update carries takes its value, every other keeps its own. -/
def apply (acc : HarvestData) (u : Update) : HarvestData where
  grainFlow := u.grainFlow.getD acc.grainFlow
  grainMoisture := u.grainMoisture.getD acc.grainMoisture
  headerWidth := u.headerWidth.getD acc.headerWidth
  headerRows := u.headerRows.getD acc.headerRows
  rowSpacing := u.rowSpacing.getD acc.rowSpacing

/-- SNAPSHOT, a copy of the five fields (44_telemetry_accumulator.md R153). -/
def snapshot (acc : HarvestData) : HarvestData where
  grainFlow := acc.grainFlow
  grainMoisture := acc.grainMoisture
  headerWidth := acc.headerWidth
  headerRows := acc.headerRows
  rowSpacing := acc.rowSpacing

/-- The canonical word `SNAP` (10_state.md R37). -/
def snapWord (acc : HarvestData) : BitVec snapW :=
  acc.rowSpacing ++ acc.headerRows ++ acc.headerWidth ++ acc.grainMoisture ++ acc.grainFlow

/-- The floating-point view of the two scaled fields, for any FloatEnc (10_state.md R23). -/
def floatView {α : Type} (enc : FloatEnc α) (acc : HarvestData) : α × α :=
  (enc.enc acc.grainFlow, enc.enc acc.grainMoisture)

/-! ### What a step does to the state -/

/-- The step ends with this result and message; registers and flags are left alone. -/
def report (kind : ResKind) (handler : BitVec resHandlerW) (msg : Option CanMessage) (s : State) : State :=
  { s with out := .transaction ⟨kind, handler, 0⟩ msg }

/-- A step that takes in no frame: EMPTY, no message (45_block_operations.md R164, R165). -/
def reportEmpty (s : State) : State := report .empty 0 none s

/-- TAKING A VIOLATION (60_exceptions.md R178 to R182): the flag of each condition is set and stays, the identifier is reported
when both hold, no message is produced, the accumulator is untouched, control goes nowhere. -/
def raiseViolation (eId eLen : Bool) (s : State) : State :=
  report (if eId then .errInvalidIdentifier else .errFrameTooLong) 0 none
    { s with status := stickyStatus s.status eId eLen }

/-- An update is merged, its fields in one action, and reported with its mask (20_memory.md R55, 45_block_operations.md R161). -/
def mergeUpdate (handler : BitVec resHandlerW) (u : Update) (msg : CanMessage) (s : State) : State :=
  { s with acc := apply s.acc u, out := .transaction ⟨.updated, handler, u.mask⟩ (some msg) }

/-- The last part of a valid FRAME transaction: what the verdict on the message does (45_block_operations.md R161). The
entry index goes out on the one-bit handler port (log entry 12). -/
def deliver (v : Verdict) (msg : CanMessage) (s : State) : State :=
  match v with
  | .update k u => mergeUpdate (BitVec.ofNat resHandlerW k) u msg s
  | .naPgn => report .naPgn 0 (some msg) s
  | .naSource k => report .naSource (BitVec.ofNat resHandlerW k) (some msg) s
  | .naOpcode k => report .naOpcode (BitVec.ofNat resHandlerW k) (some msg) s

/-- The message composed of the two halves (10_state.md R31). -/
def compose (t : IdTriple) (p : Payload) (ts : Timestamp) : CanMessage where
  pgn := t.pgn
  source := t.source
  priority := t.priority
  payload := p
  timestamp := ts

/-- The CANMessage of a valid frame (45_block_operations.md R162). -/
def messageOf (f : Frame) : CanMessage := compose (idFields f.id) (memRead f.len f.bytes 0 nBytes) f.ts

/-- A whole FRAME transaction over a dispatch table (45_block_operations.md R161): a message is composed only when both
halves succeed (10_state.md R32), else the violations are taken. -/
def processFrame (t : DispatchTable) (f : Frame) (s : State) : State :=
  match iddec f.id, pack f.len f.bytes with
  | .ok tr, .ok p => deliver (dispatch t (compose tr p f.ts)) (compose tr p f.ts) s
  | .error _, .ok _ => raiseViolation true false s
  | .ok _, .error _ => raiseViolation false true s
  | .error _, .error _ => raiseViolation true true s

/-- The reader's sample of the snapshot and status ports, both at one point (45_block_operations.md R166). -/
def readSnapshot (s : State) : State := { s with out := .snapshot (snapshot s.acc) s.status }

end Sys2Proof.Machine
end

