-- ==== Sys2Proof/Machine/Control.lean ====
section
/-! DEFINITION. Meanings of stage 0: RESET, IDLE and FRAME (45_block_operations.md). -/

namespace Sys2Proof.Machine

open Sys2Proof.Config

/-- RESET (R165): all registers and flags zero, outputs those of IDLE. -/
def execReset (s : State) : Host.Outcome State Fault Refusal :=
  .next (reportEmpty { s with acc := .zero, status := 0b00 })

/-- IDLE (R164): nothing changes, EMPTY. -/
def execIdle (s : State) : Host.Outcome State Fault Refusal := .next (reportEmpty s)

/-- FRAME (R161, R162). -/
def execFrame (f : Frame) (s : State) : Host.Outcome State Fault Refusal := .next (processFrame table f s)

end Sys2Proof.Machine
end

