-- ==== Sys2Proof/Machine/GrainFlow.lean ====
section
/-! DEFINITION. Meanings of the rows on PGN 61184 (43_signal_decoders.md R130 to R134). -/

namespace Sys2Proof.Machine

open Sys2Proof.Config

/-- The message of a frame word with the grain-flow PGN. -/
def gfMessage (priority : Priority) (source : SourceAddr) (payload : Payload) (ts : Timestamp) : CanMessage where
  pgn := pgnGf.setWidth pgnRegW
  source := source
  priority := priority
  payload := payload
  timestamp := ts

/-- The update of R131, mask 0b00011. -/
def gfUpdate (flowRaw : BitVec gfFlowW) (moistRaw : BitVec gfMoistureW) : Update :=
  { Update.none with grainFlow := some (flowRaw.setWidth grainFlowW), grainMoisture := some (moistRaw.setWidth grainMoistureW) }

/-- GRAINFLOW (R131). -/
def execGrainflow (priority : Priority) (flowRaw : BitVec gfFlowW) (moistRaw : BitVec gfMoistureW)
    (ignored : BitVec gfIgnoredW) (ts : Timestamp) (s : State) : Host.Outcome State Fault Refusal :=
  .next (mergeUpdate gfHandler (gfUpdate flowRaw moistRaw) (gfMessage priority srcGf (gfPayload flowRaw moistRaw ignored) ts) s)

/-- GF.NA_OPCODE (R131). -/
def execGfNaOpcode (priority : Priority) (payload : Payload) (ts : Timestamp) (s : State) : Host.Outcome State Fault Refusal :=
  .next (report .naOpcode gfHandler (some (gfMessage priority srcGf payload ts)) s)

/-- GF.NA_SOURCE (R130, R131). -/
def execGfNaSource (priority : Priority) (source : SourceAddr) (payload : Payload) (ts : Timestamp) (s : State) :
    Host.Outcome State Fault Refusal :=
  .next (report .naSource gfHandler (some (gfMessage priority source payload ts)) s)

end Sys2Proof.Machine
end

