-- ==== Sys2Proof/Machine/HeaderInfo.lean ====
section
/-! DEFINITION. Meanings of the rows on PGN 65535 (43_signal_decoders.md R136 to R141). The three
sources are treated alike (R136). -/

namespace Sys2Proof.Machine

open Sys2Proof.Config

/-- The message of a frame word with the header-info PGN. -/
def hiMessage (priority : Priority) (source : SourceAddr) (payload : Payload) (ts : Timestamp) : CanMessage where
  pgn := pgnHi.setWidth pgnRegW
  source := source
  priority := priority
  payload := payload
  timestamp := ts

/-- The update of R137, mask 0b11100. -/
def hiUpdate (widthRaw : BitVec hiWidthW) (rowsRaw : BitVec hiRowsW) (spacingRaw : BitVec hiSpacingW) : Update :=
  { Update.none with
    headerWidth := some (widthRaw.setWidth headerWidthW)
    headerRows := some (rowsRaw.setWidth headerRowsW)
    rowSpacing := some (spacingRaw.setWidth rowSpacingW) }

/-- A header-info message from an accepted source with the right opcode (R137). -/
def acceptHeaderInfo (priority : Priority) (source : SourceAddr) (widthRaw : BitVec hiWidthW) (ignored : BitVec hiIgnoredW)
    (rowsRaw : BitVec hiRowsW) (spacingRaw : BitVec hiSpacingW) (ts : Timestamp) (s : State) : State :=
  mergeUpdate hiHandler (hiUpdate widthRaw rowsRaw spacingRaw)
    (hiMessage priority source (hiPayload widthRaw ignored rowsRaw spacingRaw) ts) s

/-- HEADERINFO.S211 (R137). -/
def execHeaderinfoS211 (priority : Priority) (widthRaw : BitVec hiWidthW) (ignored : BitVec hiIgnoredW)
    (rowsRaw : BitVec hiRowsW) (spacingRaw : BitVec hiSpacingW) (ts : Timestamp) (s : State) : Host.Outcome State Fault Refusal :=
  .next (acceptHeaderInfo priority srcHi1 widthRaw ignored rowsRaw spacingRaw ts s)

/-- HEADERINFO.S234 (R137). -/
def execHeaderinfoS234 (priority : Priority) (widthRaw : BitVec hiWidthW) (ignored : BitVec hiIgnoredW)
    (rowsRaw : BitVec hiRowsW) (spacingRaw : BitVec hiSpacingW) (ts : Timestamp) (s : State) : Host.Outcome State Fault Refusal :=
  .next (acceptHeaderInfo priority srcHi2 widthRaw ignored rowsRaw spacingRaw ts s)

/-- HEADERINFO.S242 (R137). -/
def execHeaderinfoS242 (priority : Priority) (widthRaw : BitVec hiWidthW) (ignored : BitVec hiIgnoredW)
    (rowsRaw : BitVec hiRowsW) (spacingRaw : BitVec hiSpacingW) (ts : Timestamp) (s : State) : Host.Outcome State Fault Refusal :=
  .next (acceptHeaderInfo priority srcHi3 widthRaw ignored rowsRaw spacingRaw ts s)

/-- HI.NA_OPCODE.S211 (R137). -/
def execHiNaOpcodeS211 (priority : Priority) (payload : Payload) (ts : Timestamp) (s : State) : Host.Outcome State Fault Refusal :=
  .next (report .naOpcode hiHandler (some (hiMessage priority srcHi1 payload ts)) s)

/-- HI.NA_OPCODE.S234 (R137). -/
def execHiNaOpcodeS234 (priority : Priority) (payload : Payload) (ts : Timestamp) (s : State) : Host.Outcome State Fault Refusal :=
  .next (report .naOpcode hiHandler (some (hiMessage priority srcHi2 payload ts)) s)

/-- HI.NA_OPCODE.S242 (R137). -/
def execHiNaOpcodeS242 (priority : Priority) (payload : Payload) (ts : Timestamp) (s : State) : Host.Outcome State Fault Refusal :=
  .next (report .naOpcode hiHandler (some (hiMessage priority srcHi3 payload ts)) s)

/-- HI.NA_SOURCE (R136, R137). -/
def execHiNaSource (priority : Priority) (source : SourceAddr) (payload : Payload) (ts : Timestamp) (s : State) :
    Host.Outcome State Fault Refusal :=
  .next (report .naSource hiHandler (some (hiMessage priority source payload ts)) s)

end Sys2Proof.Machine
end

