-- ==== Sys2Proof/Machine/Ignored.lean ====
section
/-! DEFINITION. Meaning of IGNORE, a PGN that is no key of the table (42_pgn_dispatcher.md R119). -/

namespace Sys2Proof.Machine

open Sys2Proof.Config

/-- IGNORE (R119): the message is shown, nothing else happens. -/
def execIgnore (priority : Priority) (pgn : Pgn) (source : SourceAddr) (payload : Payload) (ts : Timestamp) (s : State) :
    Host.Outcome State Fault Refusal :=
  .next (report .naPgn 0
    (some { pgn := pgn.setWidth pgnRegW, source := source, priority := priority, payload := payload, timestamp := ts }) s)

end Sys2Proof.Machine
end

