-- ==== Sys2Proof/Machine/Violations.lean ====
section
/-! DEFINITION. Meanings of stage 1: the violation rows (60_exceptions.md R176 to R182) and VALID. A violation row has its own
condition by its word; an INVALID_ID row also sets `ERR_LEN` when the length is above 8 (R182). -/

namespace Sys2Proof.Machine

open Sys2Proof.Config

/-- INVALID_ID.b31. -/
def execInvalidIdB31 (_id : CanId) (len : Length) (s : State) : Host.Outcome State Fault Refusal :=
  .next (raiseViolation true (lenIllegal len) s)

/-- INVALID_ID.b30. -/
def execInvalidIdB30 (_id : CanId) (len : Length) (s : State) : Host.Outcome State Fault Refusal :=
  .next (raiseViolation true (lenIllegal len) s)

/-- INVALID_ID.b29. -/
def execInvalidIdB29 (_id : CanId) (len : Length) (s : State) : Host.Outcome State Fault Refusal :=
  .next (raiseViolation true (lenIllegal len) s)

/-- FRAME_TOO_LONG.b7. -/
def execFrameTooLongB7 (_id : CanId) (_len : Length) (s : State) : Host.Outcome State Fault Refusal :=
  .next (raiseViolation false true s)

/-- FRAME_TOO_LONG.b6. -/
def execFrameTooLongB6 (_id : CanId) (_len : Length) (s : State) : Host.Outcome State Fault Refusal :=
  .next (raiseViolation false true s)

/-- FRAME_TOO_LONG.b5. -/
def execFrameTooLongB5 (_id : CanId) (_len : Length) (s : State) : Host.Outcome State Fault Refusal :=
  .next (raiseViolation false true s)

/-- FRAME_TOO_LONG.b4. -/
def execFrameTooLongB4 (_id : CanId) (_len : Length) (s : State) : Host.Outcome State Fault Refusal :=
  .next (raiseViolation false true s)

/-- FRAME_TOO_LONG.b3b2. -/
def execFrameTooLongB3b2 (_id : CanId) (_len : Length) (s : State) : Host.Outcome State Fault Refusal :=
  .next (raiseViolation false true s)

/-- FRAME_TOO_LONG.b3b1. -/
def execFrameTooLongB3b1 (_id : CanId) (_len : Length) (s : State) : Host.Outcome State Fault Refusal :=
  .next (raiseViolation false true s)

/-- FRAME_TOO_LONG.b3b0. -/
def execFrameTooLongB3b0 (_id : CanId) (_len : Length) (s : State) : Host.Outcome State Fault Refusal :=
  .next (raiseViolation false true s)

/-- VALID: compose the CANMessage and go to stage 2, the dispatch of the message (30_encoding.md R78). -/
def execValid (f : Frame) (s : State) : Host.Outcome State Fault Refusal :=
  .next (deliver (dispatch table (messageOf f)) (messageOf f) s)

end Sys2Proof.Machine
end

