-- ==== Sys2Proof/Machine/Dispatch.lean ====
section
/-! DEFINITION. One arm per constructor of Instr, each a direct call of its meaning. -/

namespace Sys2Proof.Machine

def exec (i : Instr) (s : State) : Host.Outcome State Fault Refusal :=
  match i with
  -- stage 0, CTL2
  | .reset => Sys2Proof.Machine.execReset s
  | .idle => Sys2Proof.Machine.execIdle s
  | .frame f => Sys2Proof.Machine.execFrame f s
  -- stage 1, RAW40
  | .invalidIdB31 id len => Sys2Proof.Machine.execInvalidIdB31 id len s
  | .invalidIdB30 id len => Sys2Proof.Machine.execInvalidIdB30 id len s
  | .invalidIdB29 id len => Sys2Proof.Machine.execInvalidIdB29 id len s
  | .frameTooLongB7 id len => Sys2Proof.Machine.execFrameTooLongB7 id len s
  | .frameTooLongB6 id len => Sys2Proof.Machine.execFrameTooLongB6 id len s
  | .frameTooLongB5 id len => Sys2Proof.Machine.execFrameTooLongB5 id len s
  | .frameTooLongB4 id len => Sys2Proof.Machine.execFrameTooLongB4 id len s
  | .frameTooLongB3b2 id len => Sys2Proof.Machine.execFrameTooLongB3b2 id len s
  | .frameTooLongB3b1 id len => Sys2Proof.Machine.execFrameTooLongB3b1 id len s
  | .frameTooLongB3b0 id len => Sys2Proof.Machine.execFrameTooLongB3b0 id len s
  | .valid f => Sys2Proof.Machine.execValid f s
  -- stage 2, FW93
  | .grainflow pr fl mo ig ts => Sys2Proof.Machine.execGrainflow pr fl mo ig ts s
  | .gfNaOpcode pr p ts => Sys2Proof.Machine.execGfNaOpcode pr p ts s
  | .gfNaSource pr src p ts => Sys2Proof.Machine.execGfNaSource pr src p ts s
  | .headerinfoS211 pr wd ig ro sp ts => Sys2Proof.Machine.execHeaderinfoS211 pr wd ig ro sp ts s
  | .headerinfoS234 pr wd ig ro sp ts => Sys2Proof.Machine.execHeaderinfoS234 pr wd ig ro sp ts s
  | .headerinfoS242 pr wd ig ro sp ts => Sys2Proof.Machine.execHeaderinfoS242 pr wd ig ro sp ts s
  | .hiNaOpcodeS211 pr p ts => Sys2Proof.Machine.execHiNaOpcodeS211 pr p ts s
  | .hiNaOpcodeS234 pr p ts => Sys2Proof.Machine.execHiNaOpcodeS234 pr p ts s
  | .hiNaOpcodeS242 pr p ts => Sys2Proof.Machine.execHiNaOpcodeS242 pr p ts s
  | .hiNaSource pr src p ts => Sys2Proof.Machine.execHiNaSource pr src p ts s
  | .ignore pr pgn src p ts => Sys2Proof.Machine.execIgnore pr pgn src p ts s

end Sys2Proof.Machine
end

