-- ==== Sys2Proof/Machine/Ports.lean ====
section
/-! DEFINITION. The block's ports as the rest of the model sees them: taking the next issued operation, the output ports
(45_block_operations.md R160), and the two pseudo-frames of the spec's frame notation (30_encoding.md R88). -/

namespace Sys2Proof.Machine

open Sys2Proof.Config

/-- The pins of a cycle in which nothing is driven: no reset, no frame (45_block_operations.md R164). -/
def quietPins : Pins where
  rst := false
  frameValid := false
  frame := { id := 0, len := 0, bytes := ⟨0, 0, 0, 0, 0, 0, 0, 0⟩, ts := 0 }

/-- The next operation: the oldest issued, or a quiet cycle where none is (log entry 1). -/
def nextInput (s : State) : Input := s.pending.headD (.cycle quietPins)

/-- The state with that operation taken. -/
def advance (s : State) : State := { s with pending := s.pending.tail }

/-- The state with an operation issued ahead of all others. -/
def issueFirst (x : Input) (s : State) : State := { s with pending := x :: s.pending }

/-- The output ports after an operation (45_block_operations.md R160). `res` is absent after a snapshot, `msg` when
`msg_valid = 0` (92_eei_decisions.md D27). -/
structure OutPorts where
  resKind : Option (BitVec resKindW)
  resHandler : Option (BitVec resHandlerW)
  resMask : Option (BitVec maskW)
  msgValid : Bool
  msg : Option CanMessage
  snapGrainFlow : BitVec grainFlowW
  snapGrainMoisture : BitVec grainMoistureW
  snapHeaderWidth : BitVec headerWidthW
  snapHeaderRows : BitVec headerRowsW
  snapRowSpacing : BitVec rowSpacingW
  status : BitVec statusW
deriving DecidableEq, Repr

/-- `RES` of the last operation, absent after a snapshot. -/
def resOf : Output → Option Res
  | .transaction r _ => some r
  | .snapshot _ _ => none

/-- The message of the last operation. -/
def msgOf : Output → Option CanMessage
  | .transaction _ m => m
  | .snapshot _ _ => none

/-- The output ports. `snap_*` and `status` show the registers at all times (45_block_operations.md R166). -/
def outPorts (s : State) : OutPorts where
  resKind := (resOf s.out).map fun r => r.kind.code
  resHandler := (resOf s.out).map Res.handler
  resMask := (resOf s.out).map Res.mask
  msgValid := (msgOf s.out).isSome
  msg := msgOf s.out
  snapGrainFlow := s.acc.grainFlow
  snapGrainMoisture := s.acc.grainMoisture
  snapHeaderWidth := s.acc.headerWidth
  snapHeaderRows := s.acc.headerRows
  snapRowSpacing := s.acc.rowSpacing
  status := s.status

/-- The pseudo-frame `GF` (30_encoding.md R88); its first two bytes, 4F 09, are the opcode. -/
def gfFrame (source : SourceAddr) (flow : BitVec gfFlowW) (moist : BitVec gfMoistureW) (priority : Priority)
    (ts : Timestamp) : Frame where
  id := idWord priority pgnGf source
  len := maxLen
  bytes := bufferOf (gfPayload flow moist 0)
  ts := ts

/-- The pseudo-frame `HI` (30_encoding.md R88); its first byte, 18, is the opcode. -/
def hiFrame (source : SourceAddr) (width : BitVec hiWidthW) (rows : BitVec hiRowsW) (spacing : BitVec hiSpacingW)
    (priority : Priority) (ts : Timestamp) : Frame where
  id := idWord priority pgnHi source
  len := maxLen
  bytes := bufferOf (hiPayload width 0 rows spacing)
  ts := ts

end Sys2Proof.Machine
end

