-- ==== Sys2Proof/Machine/Step.lean ====
section
/-! DEFINITION. One step: the next operation is taken and done whole (00_scope.md R6, 20_memory.md R57). -/

namespace Sys2Proof.Machine

/-- The step. A cycle's pins decode to one instruction, which runs; a snapshot is no instruction (44_telemetry_accumulator.md R153). -/
def step (s : State) : Host.Outcome State Fault Refusal :=
  match nextInput s with
  | .cycle p => exec (decodePins p) (advance s)
  | .snap => .next (readSnapshot (advance s))

/-- The state in which a word of the table stands at the input pins of the very next step (log entries 1 and 7). -/
def State.withFetchWord (s : State) (nbits w : Nat) : State :=
  match codedOfWord nbits w with
  | .ok c => issueFirst (.cycle (pinsOf c)) s
  | .error _ => s

end Sys2Proof.Machine
end

