-- ==== Sys2Proof/Safety.lean ====
section
/-! DEFINITION. The terms the statements use: which frames a handler accepts, what a run of issued operations is, and the
invariant that the output ports agree with the registers. Written with the spec's numbers, not with the constants of
Machine/Constants.lean, so that a statement would notice a wrong constant. -/

namespace Sys2Proof.Safety

open Sys2Proof.Machine

/-! ### Frames -/

/-- `id[31:29] = 0` (40_identifier_decoder.md R95). -/
abbrev legalId (id : CanId) : Prop := id.extractLsb' 29 3 = 0

/-- A legal identifier and a legal length (30_encoding.md R81). -/
abbrev legalFrame (f : Frame) : Prop := legalId f.id ∧ f.len.toNat ≤ 8

/-- The frames handler 0 accepts, in the bits of the frame (95_test_vectors.md part 4; 30_encoding.md R85). -/
abbrev acceptsGrainFlow (f : Frame) : Prop :=
  legalId f.id ∧ f.len.toNat ≤ 8 ∧ f.id.extractLsb' 8 18 = 0x0EF00#18 ∧ f.id.extractLsb' 0 8 = 0xD3#8 ∧
    2 ≤ f.len.toNat ∧ f.bytes.b0 = 0x4F#8 ∧ f.bytes.b1 = 0x09#8

/-- The frames handler 1 accepts, in the bits of the frame (95_test_vectors.md part 4; 30_encoding.md R85). -/
abbrev acceptsHeaderInfo (f : Frame) : Prop :=
  legalId f.id ∧ f.len.toNat ≤ 8 ∧ f.id.extractLsb' 8 18 = 0x0FFFF#18 ∧
    (f.id.extractLsb' 0 8 = 0xD3#8 ∨ f.id.extractLsb' 0 8 = 0xEA#8 ∨ f.id.extractLsb' 0 8 = 0xF2#8) ∧
    1 ≤ f.len.toNat ∧ f.bytes.b0 = 0x18#8

/-- The payload of a frame, `MemRead(0, 8)` (20_memory.md R49). -/
abbrev payloadOf (f : Frame) : Payload := memRead f.len f.bytes 0 8

/-- The bytes of a buffer, index 0 first. -/
def bytesOf (fb : FrameBuffer) : List Byte := [fb.b0, fb.b1, fb.b2, fb.b3, fb.b4, fb.b5, fb.b6, fb.b7]

/-- Two frames that differ at most in stale bytes, those at an index at or above the length (20_memory.md R61). -/
def sameButStale (f g : Frame) : Prop :=
  f.id = g.id ∧ f.len = g.len ∧ f.ts = g.ts ∧
    (bytesOf f.bytes).take f.len.toNat = (bytesOf g.bytes).take g.len.toNat

/-- Two frames that differ at most in priority, `id[28:26]`, and in capture time (30_encoding.md R83). -/
def sameButPriorityAndTime (f g : Frame) : Prop :=
  f.id.extractLsb' 0 26 = g.id.extractLsb' 0 26 ∧ f.id.extractLsb' 29 3 = g.id.extractLsb' 29 3 ∧
    f.len = g.len ∧ f.bytes = g.bytes

/-- The CANMessage of a valid frame, in the bits of the frame (10_state.md R31, 40_identifier_decoder.md R96 to R98). -/
def messageIn (f : Frame) : CanMessage where
  pgn := (f.id.extractLsb' 8 18).setWidth 32
  source := f.id.extractLsb' 0 8
  priority := f.id.extractLsb' 26 3
  payload := payloadOf f
  timestamp := f.ts

/-- What a valid frame does: the last five rows of the table under 45_block_operations.md R163. -/
def validOutcome (f : Frame) (s : State) : State :=
  let pgn := f.id.extractLsb' 8 18
  let source := f.id.extractLsb' 0 8
  let p := payloadOf f
  if pgn ≠ 61184#18 ∧ pgn ≠ 65535#18 then
    { s with out := .transaction ⟨.naPgn, 0, 0⟩ (some (messageIn f)) }
  else if pgn = 61184#18 then
    if source ≠ 211#8 then { s with out := .transaction ⟨.naSource, 0, 0⟩ (some (messageIn f)) }
    else if p.extractLsb' 0 16 ≠ 2383#16 then { s with out := .transaction ⟨.naOpcode, 0, 0⟩ (some (messageIn f)) }
    else { s with
      acc := { s.acc with grainFlow := p.extractLsb' 16 16, grainMoisture := p.extractLsb' 32 16 }
      out := .transaction ⟨.updated, 0, 0b00011⟩ (some (messageIn f)) }
  else
    if source ≠ 211#8 ∧ source ≠ 234#8 ∧ source ≠ 242#8 then
      { s with out := .transaction ⟨.naSource, 1, 0⟩ (some (messageIn f)) }
    else if p.extractLsb' 0 8 ≠ 24#8 then { s with out := .transaction ⟨.naOpcode, 1, 0⟩ (some (messageIn f)) }
    else { s with
      acc := { s.acc with
        headerWidth := p.extractLsb' 8 16, headerRows := p.extractLsb' 48 8, rowSpacing := p.extractLsb' 56 8 }
      out := .transaction ⟨.updated, 1, 0b11100⟩ (some (messageIn f)) }

/-- What a frame does: the table under 45_block_operations.md R163, its conditions in its order. -/
def frameOutcome (f : Frame) (s : State) : State :=
  if f.id.extractLsb' 29 3 ≠ 0 then
    { s with
      status := s.status ||| (if 8 < f.len.toNat then 0b11 else 0b01)
      out := .transaction ⟨.errInvalidIdentifier, 0, 0⟩ none }
  else if 8 < f.len.toNat then
    { s with status := s.status ||| 0b10, out := .transaction ⟨.errFrameTooLong, 0, 0⟩ none }
  else validOutcome f s

/-! ### Runs -/

/-- The operations `l` issued to the block, and as many steps as they are. -/
def runInputs (l : List Input) (s : State) : Host.Outcome State Fault Refusal :=
  Sys2Proof.core.run l.length { s with pending := l }

/-- The state after one operation; `s` where there is none (which 45_block_operations.md R161 excludes). -/
def effect (s : State) (x : Input) : State :=
  match step { s with pending := [x] } with
  | .next t => t
  | .fault _ => s
  | .refused _ => s

/-- An operation that offers a frame which the block takes (30_encoding.md R77). -/
def offeredFrame : Input → Option Frame
  | .cycle p => if p.rst = false ∧ p.frameValid = true then some p.frame else none
  | .snap => none

/-- An operation that resets the block. -/
def isReset : Input → Bool
  | .cycle p => p.rst
  | .snap => false

/-- A frame offered in a cycle without reset. -/
def offer (f : Frame) : Input := .cycle { rst := false, frameValid := true, frame := f }

/-- The last frame among the operations that handler 0 accepts. -/
def lastGrainFlow (l : List Input) : Option Frame :=
  ((l.filterMap offeredFrame).filter fun f => decide (acceptsGrainFlow f)).getLast?

/-- The last frame among the operations that handler 1 accepts. -/
def lastHeaderInfo (l : List Input) : Option Frame :=
  ((l.filterMap offeredFrame).filter fun f => decide (acceptsHeaderInfo f)).getLast?

/-- Two sequences of operations that differ at most in stale bytes of the frames offered. -/
def sameInputsButStale : Input → Input → Prop
  | .snap, .snap => True
  | .cycle p, .cycle q => p.rst = q.rst ∧ p.frameValid = q.frameValid ∧ sameButStale p.frame q.frame
  | .snap, .cycle _ => False
  | .cycle _, .snap => False

/-! ### The invariant -/

/-- A grain-flow message that handler 0 accepts (43_signal_decoders.md R131). -/
def isGrainFlow (m : CanMessage) : Prop :=
  m.pgn = 61184 ∧ m.source = 211 ∧ m.payload.extractLsb' 0 16 = 2383#16

/-- A header-info message that handler 1 accepts (43_signal_decoders.md R137). -/
def isHeaderInfo (m : CanMessage) : Prop :=
  m.pgn = 65535 ∧ (m.source = 211 ∨ m.source = 234 ∨ m.source = 242) ∧ m.payload.extractLsb' 0 8 = 24#8

/-- What the result port says of the message port and of the registers, kind by kind (10_state.md R35,
45_block_operations.md R163). -/
def resultAgrees (s : State) (r : Res) (m : Option CanMessage) : Prop :=
  match r.kind with
  | .empty => r.handler = 0 ∧ r.mask = 0 ∧ m = none
  | .updated => ∃ msg, m = some msg ∧
      ((r.handler = 0 ∧ r.mask = 0b00011 ∧ isGrainFlow msg ∧
          s.acc.grainFlow = msg.payload.extractLsb' 16 16 ∧ s.acc.grainMoisture = msg.payload.extractLsb' 32 16) ∨
       (r.handler = 1 ∧ r.mask = 0b11100 ∧ isHeaderInfo msg ∧
          s.acc.headerWidth = msg.payload.extractLsb' 8 16 ∧ s.acc.headerRows = msg.payload.extractLsb' 48 8 ∧
          s.acc.rowSpacing = msg.payload.extractLsb' 56 8))
  | .naPgn => r.handler = 0 ∧ r.mask = 0 ∧ ∃ msg, m = some msg ∧ msg.pgn ≠ 61184 ∧ msg.pgn ≠ 65535
  | .naSource => r.mask = 0 ∧ ∃ msg, m = some msg ∧
      ((r.handler = 0 ∧ msg.pgn = 61184 ∧ msg.source ≠ 211) ∨
       (r.handler = 1 ∧ msg.pgn = 65535 ∧ msg.source ≠ 211 ∧ msg.source ≠ 234 ∧ msg.source ≠ 242))
  | .naOpcode => r.mask = 0 ∧ ∃ msg, m = some msg ∧
      ((r.handler = 0 ∧ msg.pgn = 61184 ∧ msg.source = 211 ∧ msg.payload.extractLsb' 0 16 ≠ 2383#16) ∨
       (r.handler = 1 ∧ msg.pgn = 65535 ∧ (msg.source = 211 ∨ msg.source = 234 ∨ msg.source = 242) ∧
          msg.payload.extractLsb' 0 8 ≠ 24#8))
  | .errInvalidIdentifier => r.handler = 0 ∧ r.mask = 0 ∧ m = none ∧ errId s.status = true
  | .errFrameTooLong => r.handler = 0 ∧ r.mask = 0 ∧ m = none ∧ errLen s.status = true

/-- The invariant: what the output ports show agrees with the registers, and a message's PGN is below 2^18 (10_state.md R33).
A snapshot's copy is the registers and flags as they stand (45_block_operations.md R166). -/
def Inv (s : State) : Prop :=
  match s.out with
  | .transaction r m => resultAgrees s r m ∧ ∀ msg, m = some msg → msg.pgn.toNat < 2 ^ 18
  | .snapshot d st => d = s.acc ∧ st = s.status

end Sys2Proof.Safety
end

