-- ==== Sys2Proof/WellFormed.lean ====
section
/-! DEFINITION. When a term of `Instr` is the instruction its row describes: its free bits are such that no earlier row of
its stage fits and its own does (30_encoding.md R78, R79). Terms that are not are never decoded. -/

namespace Sys2Proof

open Sys2Proof.Config Sys2Proof.Machine

/-- The length fits none of the FRAME_TOO_LONG rows before the one that looks at bit 3. -/
def lenHighClear (len : Length) : Bool :=
  !lenFits rowLenB7 len && !lenFits rowLenB6 len && !lenFits rowLenB5 len && !lenFits rowLenB4 len

/-- The source is none of the three accepted for header info (43_signal_decoders.md R136). -/
def notHiSource (source : SourceAddr) : Bool :=
  (source != srcHi1) && (source != srcHi2) && (source != srcHi3)

/-- Well-formedness, row by row. -/
def Instr.wf : Instr → Bool
  | .reset => true
  | .idle => true
  | .frame _ => true
  | .invalidIdB31 id _ => idFits rowIdB31 id
  | .invalidIdB30 id _ => !idFits rowIdB31 id && idFits rowIdB30 id
  | .invalidIdB29 id _ => !idFits rowIdB31 id && !idFits rowIdB30 id && idFits rowIdB29 id
  | .frameTooLongB7 id len => !idIllegal id && lenFits rowLenB7 len
  | .frameTooLongB6 id len => !idIllegal id && !lenFits rowLenB7 len && lenFits rowLenB6 len
  | .frameTooLongB5 id len => !idIllegal id && !lenFits rowLenB7 len && !lenFits rowLenB6 len && lenFits rowLenB5 len
  | .frameTooLongB4 id len => !idIllegal id && !lenFits rowLenB7 len && !lenFits rowLenB6 len && !lenFits rowLenB5 len &&
      lenFits rowLenB4 len
  | .frameTooLongB3b2 id len => !idIllegal id && lenHighClear len && lenFits rowLenB3b2 len
  | .frameTooLongB3b1 id len => !idIllegal id && lenHighClear len && !lenFits rowLenB3b2 len && lenFits rowLenB3b1 len
  | .frameTooLongB3b0 id len => !idIllegal id && lenHighClear len && !lenFits rowLenB3b2 len && !lenFits rowLenB3b1 len &&
      lenFits rowLenB3b0 len
  | .valid f => !idIllegal f.id && !lenIllegal f.len
  | .grainflow _ _ _ _ _ => true
  | .gfNaOpcode _ payload _ => gfOpcode payload != opcGf
  | .gfNaSource _ source _ _ => source != srcGf
  | .headerinfoS211 _ _ _ _ _ _ => true
  | .headerinfoS234 _ _ _ _ _ _ => true
  | .headerinfoS242 _ _ _ _ _ _ => true
  | .hiNaOpcodeS211 _ payload _ => hiOpcode payload != opcHi
  | .hiNaOpcodeS234 _ payload _ => hiOpcode payload != opcHi
  | .hiNaOpcodeS242 _ payload _ => hiOpcode payload != opcHi
  | .hiNaSource _ source _ _ => notHiSource source
  | .ignore _ pgn _ _ _ => (pgn != pgnGf) && (pgn != pgnHi)

end Sys2Proof
end

