-- ==== Sys2Proof/Certificates/Slice0/Obligations.lean ====
section
/-! DEFINITION. The statements for the provers. Each docstring names the rule of spec/ it formalises; the fuller text is
in OBLIGATIONS.json. -/

open Sys2Proof Sys2Proof.Machine Sys2Proof.Safety Sys2Proof.Config

/-! ### Reset, idle, snapshot, the step -/

/-- 10_state.md R27: every accumulator field is zero at reset, and so is its view in any float encoding. -/
def Obligations.ResetLeavesAccumulatorZero : Prop :=
  State.reset.acc = ⟨0, 0, 0, 0, 0⟩ ∧
    ∀ (α : Type) (enc : FloatEnc α),
      enc.comparesEq (floatView enc State.reset.acc).1 0 ∧ enc.comparesEq (floatView enc State.reset.acc).2 0

/-- 10_state.md R28, R38 (decisions D10, D21): both flags are clear at reset. The outputs are those of a RESET step
(D21); that nothing is issued yet is the model's choice (log entry 1). -/
def Obligations.ResetLeavesFlagsClearAndNothingIssued : Prop :=
  State.reset.status = 0b00 ∧ State.reset.out = .transaction ⟨.empty, 0, 0⟩ none ∧ State.reset.pending = []

/-- 45_block_operations.md R165, 70_reset_and_hazards.md R201 (decisions D3, D21): RESET gives S0 and EMPTY, whatever the state; a
frame offered in its cycle is dropped. -/
def Obligations.ResetGivesS0AndDropsAFrame : Prop :=
  (∀ s : State, exec .reset s = .next
    { acc := ⟨0, 0, 0, 0, 0⟩, status := 0b00, pending := s.pending, out := .transaction ⟨.empty, 0, 0⟩ none }) ∧
  ∀ (s : State) (frameValid : Bool) (f : Frame) (rest : List Input),
    s.pending = .cycle { rst := true, frameValid := frameValid, frame := f } :: rest →
    step s = .next
      { acc := ⟨0, 0, 0, 0, 0⟩, status := 0b00, pending := rest, out := .transaction ⟨.empty, 0, 0⟩ none }

/-- 45_block_operations.md R164 (decision D26): IDLE changes no register and reports EMPTY; the frame pins are not looked at. -/
def Obligations.IdleChangesNothing : Prop :=
  (∀ s : State, exec .idle s = .next { s with out := .transaction ⟨.empty, 0, 0⟩ none }) ∧
    ∀ f : Frame, decodePins { rst := false, frameValid := false, frame := f } = .idle

/-- 20_memory.md R57, 45_block_operations.md R161: a step takes the oldest operation issued and runs the instruction its
pins decode to. That a block with nothing issued idles is the model's choice (log entry 1). -/
def Obligations.StepRunsTheDecodedInstruction : Prop :=
  (∀ (s : State) (p : Pins) (rest : List Input), s.pending = .cycle p :: rest →
      step s = exec (decodePins p) { s with pending := rest }) ∧
    ∀ s : State, s.pending = [] → step s = exec .idle s

/-- 44_telemetry_accumulator.md R153, 45_block_operations.md R166 (decisions D16, D28): a snapshot returns the five fields and
the flags as they stand when it is taken, before any operation issued after it, and changes nothing. -/
def Obligations.SnapshotReturnsTheRegisters : Prop :=
  ∀ (s : State) (rest : List Input), s.pending = .snap :: rest →
    step s = .next { s with pending := rest, out := .snapshot s.acc s.status }

/-- 45_block_operations.md R160, R166, 10_state.md R37 (decisions D2, D16, D27): the output ports show the registers and the last
result and message; the snapshot word holds the five fields. -/
def Obligations.OutputPortsShowTheRegisters : Prop :=
  (∀ d : HarvestData,
    (snapWord d).extractLsb' 0 16 = d.grainFlow ∧ (snapWord d).extractLsb' 16 16 = d.grainMoisture ∧
    (snapWord d).extractLsb' 32 16 = d.headerWidth ∧ (snapWord d).extractLsb' 48 8 = d.headerRows ∧
    (snapWord d).extractLsb' 56 8 = d.rowSpacing) ∧
  ∀ s : State,
    (outPorts s).snapGrainFlow = s.acc.grainFlow ∧ (outPorts s).snapGrainMoisture = s.acc.grainMoisture ∧
    (outPorts s).snapHeaderWidth = s.acc.headerWidth ∧ (outPorts s).snapHeaderRows = s.acc.headerRows ∧
    (outPorts s).snapRowSpacing = s.acc.rowSpacing ∧ (outPorts s).status = s.status ∧
    ((outPorts s).msgValid = true ↔ ∃ r m, s.out = .transaction r (some m)) ∧
    ∀ r m, s.out = .transaction r m →
      (outPorts s).resKind = some r.kind.code ∧ (outPorts s).resHandler = some r.handler ∧
      (outPorts s).resMask = some r.mask ∧ (outPorts s).msg = m

/-- 45_block_operations.md R161: step is total; 70_reset_and_hazards.md R214: no state is stuck. -/
def Obligations.EveryStepAnswersANextState : Prop :=
  ∀ s : State, ∃ t : State, step s = .next t ∧ t.pending = s.pending.tail

/-- 10_state.md R35 (decision D11): the codes 0 to 6 of the result kinds; code 7 is never produced. -/
def Obligations.ResultKindsHaveTheirCodes : Prop :=
  ResKind.empty.code = 0 ∧ ResKind.updated.code = 1 ∧ ResKind.naPgn.code = 2 ∧ ResKind.naSource.code = 3 ∧
    ResKind.naOpcode.code = 4 ∧ ResKind.errInvalidIdentifier.code = 5 ∧ ResKind.errFrameTooLong.code = 6 ∧
    ∀ k : ResKind, k.code ≠ 7

/-! ### Encoding -/

/-- spec/opcode_table.json: a few words of each stage, read off the table's bits. -/
def Obligations.TableWordsDecode : Prop :=
  decodeTableWord 8 0b10 = some .reset ∧ decodeTableWord 8 0b00 = some .idle ∧
    decodeTableWord 40 0x0098EF00D3 = some (.invalidIdB31 0x98EF00D3 0) ∧
    decodeTableWord 40 0x0918EF00D3 = some (.frameTooLongB3b0 0x18EF00D3 9) ∧
    decodeTableWord 96 0x18EF00D3000004B005DC094F = some (.grainflow 6 1500 1200 0 0) ∧
    decodeTableWord 96 0x18FFFFEA4C0C000000177018 = some (.headerinfoS234 6 6000 0 12 76 0) ∧
    decodeTableWord 96 0x1804D2D3000004B005DC094F = some (.ignore 6 1234 211 0x000004B005DC094F 0)

/-- 30_encoding.md R77 to R79: every well-formed instruction is read back from its own word, every operand at every value. -/
def Obligations.DecodeOfEncodeIsTheInstruction : Prop :=
  ∀ i : Instr, i.wf = true → decode (encode i) = i

/-- 30_encoding.md R78, R79: no bit of a word of stage 1 or stage 2 is dropped: encoding what a word decodes to gives the
word back. -/
def Obligations.EncodeOfDecodeIsTheWord : Prop :=
  (∀ (w : BitVec 93) (ts : Timestamp), encode (decodeFw w ts) = .fw w ts) ∧
    ∀ (w : BitVec 40) (fb : FrameBuffer) (ts : Timestamp),
      ∃ (fb' : FrameBuffer) (ts' : Timestamp), encode (decodeRaw w fb ts) = .raw w fb' ts'

/-- 30_encoding.md R78, R79: the first row that fits decides, so every decoded instruction meets its row's conditions and none of
an earlier row's. -/
def Obligations.DecodedInstructionsAreWellFormed : Prop :=
  ∀ c : Coded, (decode c).wf = true

/-- 30_encoding.md section 6 beside 45_block_operations.md R161: the table-driven classifier and the block's step function
agree on every frame in every state. -/
def Obligations.FrameAgreesWithTheTables : Prop :=
  ∀ (f : Frame) (s : State), exec (.frame f) s = exec (classify f) s

/-- 30_encoding.md R77 to R79 beside 45_block_operations.md R161: every well-formed instruction, offered at the input pins as
its own word, is what the next step runs. How a word stands at the pins is the model's choice (log entry 7). -/
def Obligations.EncodedInstructionsRunFromThePins : Prop :=
  ∀ (i : Instr) (s : State), i.wf = true → step (issueFirst (.cycle (pinsOf (encode i))) s) = exec i s

/-- 30_encoding.md section 6: a word of the table, placed at the pins, runs as the instruction it decodes to (log entry 7). -/
def Obligations.PlacedTableWordsRun : Prop :=
  ∀ (s : State) (nbits w : Nat) (i : Instr), decodeTableWord nbits w = some i →
    step (s.withFetchWord nbits w) = exec i s

/-! ### Units -/

/-- 40_identifier_decoder.md R99: an identifier of 0x20000000 or above fails as a whole, and nothing of a message is produced. -/
def Obligations.IdentifierAboveTwentyNineBitsFails : Prop :=
  ∀ (f : Frame) (s : State), 0x20000000 ≤ f.id.toNat →
    iddec f.id = .error .invalidIdentifier ∧
      ∃ t, exec (.frame f) s = .next t ∧ t.acc = s.acc ∧ t.out = .transaction ⟨.errInvalidIdentifier, 0, 0⟩ none

/-- 40_identifier_decoder.md R95 to R98, R100 (the last derived there): a legal identifier decodes to its three slices, and
legal identifiers and triples correspond one to one. -/
def Obligations.IdentifiersAndTriplesCorrespond : Prop :=
  (∀ id : CanId, id.toNat ≤ 0x1FFFFFFF →
      iddec id = .ok
        { priority := id.extractLsb' 26 3, pgn := (id.extractLsb' 8 18).setWidth 32, source := id.extractLsb' 0 8 } ∧
      idWord (id.extractLsb' 26 3) (id.extractLsb' 8 18) (id.extractLsb' 0 8) = id) ∧
    ∀ (priority : Priority) (pgn : Pgn) (source : SourceAddr),
      (idWord priority pgn source).toNat ≤ 0x1FFFFFFF ∧
      iddec (idWord priority pgn source) = .ok { priority := priority, pgn := pgn.setWidth 32, source := source }

/-- 41_payload_assembler.md R106: byte `i` of the frame is `payload[8i+7:8i]`. -/
def Obligations.BytesLieLittleEndianInThePayload : Prop :=
  ∀ (len : BitVec 8) (fb : FrameBuffer) (i : Nat), len.toNat ≤ 8 → i < len.toNat →
    ∃ p, pack len fb = .ok p ∧ (bytesOf fb)[i]? = some (p.extractLsb' (8 * i) 8)

/-- 41_payload_assembler.md R105 and R110 (the latter derived there): the payload is the sum of its shifted bytes. -/
def Obligations.PayloadIsTheSumOfItsBytes : Prop :=
  ∀ (len : BitVec 8) (fb : FrameBuffer), len.toNat ≤ 8 →
    ∃ p, pack len fb = .ok p ∧
      p.toNat = ((List.range len.toNat).map fun i => ((bytesOf fb).getD i 0).toNat * 2 ^ (8 * i)).sum

/-- 41_payload_assembler.md R107: a frame of length 0 has payload 0 and yields a message; lanes at or above the length are zero. -/
def Obligations.LanesAboveTheLengthAreZero : Prop :=
  (∀ fb : FrameBuffer, pack 0 fb = .ok 0) ∧
    (∀ (f : Frame) (s : State), f.len = 0 → legalId f.id →
      ∃ (t : State) (r : Res) (m : CanMessage),
        exec (.frame f) s = .next t ∧ t.out = .transaction r (some m) ∧ m.payload = 0) ∧
    ∀ (len : BitVec 8) (fb : FrameBuffer), len.toNat < 8 →
      ∃ p, pack len fb = .ok p ∧ p >>> (8 * len.toNat) = 0 ∧ p.toNat < 2 ^ (8 * len.toNat)

/-- 41_payload_assembler.md R109: a length of 9 to 255 fails, no byte is looked at and no message is produced even when the
identifier is legal. -/
def Obligations.LengthAboveEightFails : Prop :=
  ∀ (f : Frame) (fb : FrameBuffer) (s : State), 8 < f.len.toNat →
    pack f.len f.bytes = .error .frameTooLong ∧ exec (.frame { f with bytes := fb }) s = exec (.frame f) s ∧
      ∃ (t : State) (r : Res), exec (.frame f) s = .next t ∧ t.out = .transaction r none ∧
        (legalId f.id → r.kind = .errFrameTooLong)

/-- 43_signal_decoders.md R125, R126 (the latter derived there): a field is its slice, below `2^width`, and depends on no bit outside it. -/
def Obligations.FieldIsItsSlice : Prop :=
  ∀ (p : Payload) (start width : Nat), 1 ≤ width → start + width ≤ 64 →
    field p start width = (p.extractLsb' start width).setWidth 64 ∧ (field p start width).toNat < 2 ^ width ∧
      ∀ q : Payload, (∀ k, start ≤ k → k < start + width → q.getLsbD k = p.getLsbD k) →
        field q start width = field p start width

/-- 20_memory.md R49 (derived there): a field of whole bytes of the payload is the read of those bytes. -/
def Obligations.ByteFieldsAreFrameReads : Prop :=
  ∀ (len : BitVec 8) (fb : FrameBuffer) (i n : Nat), len.toNat ≤ 8 → 1 ≤ n → i + n ≤ 8 →
    pack len fb = .ok (memRead len fb 0 8) ∧ field (memRead len fb 0 8) (8 * i) (8 * n) = memRead len fb i n

/-- 43_signal_decoders.md R127, R128 (decision D6): the physical value of each data field of the table. -/
def Obligations.PhysicalValuesOfTheFields : Prop :=
  (∀ raw : BitVec 16, scale100 raw = (raw.toNat : Rat) / 100) ∧
    ∀ h ∈ table.handlers, ∀ d ∈ h.fields, ∀ raw : Payload,
      physical d raw =
        if d.dest = .grainFlow ∨ d.dest = .grainMoisture then (raw.toNat : Rat) / 100 else (raw.toNat : Rat)

/-- 10_state.md R23 (decision D6): whatever the float encoding, the source's example reads 15.00 and 12.00. -/
def Obligations.FloatViewOfTheSourceExample : Prop :=
  ∀ (α : Type) (enc : FloatEnc α) (s : State) (priority : Priority) (ts : Timestamp),
    ∃ t, exec (.frame (gfFrame 211 1500 1200 priority ts)) s = .next t ∧
      enc.comparesEq (floatView enc t.acc).1 15 ∧ enc.comparesEq (floatView enc t.acc).2 12

/-- 42_pgn_dispatcher.md R115, for every dispatch table: the lookup finds exactly the entry whose key is the PGN. -/
def Obligations.LookupIsAnExactMatch : Prop :=
  ∀ (t : DispatchTable) (pgn : BitVec 32),
    (∀ (k : Nat) (h : Handler), lookup t pgn = some (k, h) ↔ t.handlers[k]? = some h ∧ h.key.setWidth 32 = pgn) ∧
    (lookup t pgn = none ↔ ∀ h ∈ t.handlers, h.key.setWidth 32 ≠ pgn)

/-- 42_pgn_dispatcher.md R121: entries added behind a table leave the dispatch of the keys it had as it was. -/
def Obligations.LaterEntriesLeaveDispatchAlone : Prop :=
  ∀ (t t' : DispatchTable) (more : List Handler) (msg : CanMessage), t'.handlers = t.handlers ++ more →
    dispatch t msg ≠ .naPgn → dispatch t' msg = dispatch t msg

/-- 42_pgn_dispatcher.md R116: the two entries of this hardware's table. -/
def Obligations.TheDispatchTable : Prop :=
  table.handlers = [
    { key := 61184, sources := [211], opcStart := 0, opcWidth := 16, opcValue := 2383,
      fields := [⟨.grainFlow, 16, 16, 1 / 100, 0⟩, ⟨.grainMoisture, 32, 16, 1 / 100, 0⟩] },
    { key := 65535, sources := [211, 234, 242], opcStart := 0, opcWidth := 8, opcValue := 24,
      fields := [⟨.headerWidth, 8, 16, 1, 0⟩, ⟨.headerRows, 48, 8, 1, 0⟩, ⟨.rowSpacing, 56, 8, 1, 0⟩] }]

/-- 43_signal_decoders.md R131: a message on PGN 61184, for every value `opc` of the opcode constant; this hardware's is
2383 (90_conflicts.md C1, decision D5). -/
def Obligations.GrainFlowDecoder : Prop :=
  table = tableFor 2383 ∧
    ∀ (opc : BitVec 16) (msg : CanMessage) (s : State), msg.pgn = 61184 →
      deliver (dispatch (tableFor opc) msg) msg s =
        if msg.source ≠ 211 then { s with out := .transaction ⟨.naSource, 0, 0⟩ (some msg) }
        else if msg.payload.extractLsb' 0 16 ≠ opc then { s with out := .transaction ⟨.naOpcode, 0, 0⟩ (some msg) }
        else { s with
          acc := { s.acc with
            grainFlow := msg.payload.extractLsb' 16 16, grainMoisture := msg.payload.extractLsb' 32 16 }
          out := .transaction ⟨.updated, 0, 0b00011⟩ (some msg) }

/-- 43_signal_decoders.md R137: a message on PGN 65535. -/
def Obligations.HeaderInfoDecoder : Prop :=
  ∀ (msg : CanMessage) (s : State), msg.pgn = 65535 →
    deliver (dispatch table msg) msg s =
      if ¬(msg.source = 211 ∨ msg.source = 234 ∨ msg.source = 242) then
        { s with out := .transaction ⟨.naSource, 1, 0⟩ (some msg) }
      else if msg.payload.extractLsb' 0 8 ≠ 24 then { s with out := .transaction ⟨.naOpcode, 1, 0⟩ (some msg) }
      else { s with
        acc := { s.acc with
          headerWidth := msg.payload.extractLsb' 8 16
          headerRows := msg.payload.extractLsb' 48 8
          rowSpacing := msg.payload.extractLsb' 56 8 }
        out := .transaction ⟨.updated, 1, 0b11100⟩ (some msg) }

/-- 44_telemetry_accumulator.md R150: a field whose mask bit is set takes the update's value, every other keeps its own, and
no flag is written. -/
def Obligations.ApplyMergesByTheMask : Prop :=
  ∀ (acc : HarvestData) (u : Update),
    (if u.mask.getLsbD 0 then u.grainFlow = some (apply acc u).grainFlow else (apply acc u).grainFlow = acc.grainFlow) ∧
    (if u.mask.getLsbD 1 then u.grainMoisture = some (apply acc u).grainMoisture
      else (apply acc u).grainMoisture = acc.grainMoisture) ∧
    (if u.mask.getLsbD 2 then u.headerWidth = some (apply acc u).headerWidth
      else (apply acc u).headerWidth = acc.headerWidth) ∧
    (if u.mask.getLsbD 3 then u.headerRows = some (apply acc u).headerRows
      else (apply acc u).headerRows = acc.headerRows) ∧
    (if u.mask.getLsbD 4 then u.rowSpacing = some (apply acc u).rowSpacing
      else (apply acc u).rowSpacing = acc.rowSpacing) ∧
    ∀ (h : BitVec 1) (msg : CanMessage) (s : State),
      (mergeUpdate h u msg s).acc = apply s.acc u ∧ (mergeUpdate h u msg s).status = s.status

/-- 44_telemetry_accumulator.md R157 (derived there): of two updates of one kind the later wins. -/
def Obligations.LaterUpdateOfAKindWins : Prop :=
  ∀ (acc : HarvestData) (u v : Update), u.mask = v.mask → apply (apply acc u) v = apply acc v

/-! ### Frames -/

/-- 45_block_operations.md R163: the seven outcomes of a FRAME transaction, their conditions in the table's order. -/
def Obligations.FrameHasOneOfSevenOutcomes : Prop :=
  ∀ (f : Frame) (s : State), exec (.frame f) s = .next (frameOutcome f s)

/-- 30_encoding.md R78, R79 and 45_block_operations.md R162: the VALID row composes the message and goes to stage 2. -/
def Obligations.ValidRowGoesToStageTwo : Prop :=
  ∀ (f : Frame) (s : State), legalFrame f → exec (.valid f) s = .next (validOutcome f s)

/-- 30_encoding.md R79, R85 (the latter derived there); 95_test_vectors.md part 4: handler 0 updates exactly these frames. -/
def Obligations.GrainFlowUpdatesExactlyItsFrames : Prop :=
  ∀ (f : Frame) (s : State),
    (∃ (t : State) (m : CanMessage), exec (.frame f) s = .next t ∧
      t.out = .transaction ⟨.updated, 0, 0b00011⟩ (some m)) ↔ acceptsGrainFlow f

/-- 30_encoding.md R79, R85 (the latter derived there); 95_test_vectors.md part 4: handler 1 updates exactly these frames. -/
def Obligations.HeaderInfoUpdatesExactlyItsFrames : Prop :=
  ∀ (f : Frame) (s : State),
    (∃ (t : State) (m : CanMessage), exec (.frame f) s = .next t ∧
      t.out = .transaction ⟨.updated, 1, 0b11100⟩ (some m)) ↔ acceptsHeaderInfo f

/-- 20_memory.md R50 (derived there), 43_signal_decoders.md R132, R133, R142 (decision D12): an accepted grain-flow frame writes
its bytes 2 to 5, those at or above the length as zero; there is no length test. -/
def Obligations.GrainFlowFrameWritesItsBytes : Prop :=
  ∀ (f : Frame) (s : State), acceptsGrainFlow f →
    exec (.frame f) s = .next { s with
      acc := { s.acc with
        grainFlow := (if 3 < f.len.toNat then f.bytes.b3 else 0) ++ (if 2 < f.len.toNat then f.bytes.b2 else 0)
        grainMoisture := (if 5 < f.len.toNat then f.bytes.b5 else 0) ++ (if 4 < f.len.toNat then f.bytes.b4 else 0) }
      out := .transaction ⟨.updated, 0, 0b00011⟩ (some (messageIn f)) }

/-- 20_memory.md R51 (derived there), 43_signal_decoders.md R138 to R140, R142 (decision D12): an accepted header-info frame writes
its bytes 1, 2, 6 and 7, those at or above the length as zero. -/
def Obligations.HeaderInfoFrameWritesItsBytes : Prop :=
  ∀ (f : Frame) (s : State), acceptsHeaderInfo f →
    exec (.frame f) s = .next { s with
      acc := { s.acc with
        headerWidth := (if 2 < f.len.toNat then f.bytes.b2 else 0) ++ (if 1 < f.len.toNat then f.bytes.b1 else 0)
        headerRows := if 6 < f.len.toNat then f.bytes.b6 else 0
        rowSpacing := if 7 < f.len.toNat then f.bytes.b7 else 0 }
      out := .transaction ⟨.updated, 1, 0b11100⟩ (some (messageIn f)) }

/-- 30_encoding.md R82: a valid frame that is not UPDATED changes no register and no flag and raises nothing; it is reported
as one of the three not-applicable kinds. -/
def Obligations.IgnoredFramesChangeNothing : Prop :=
  ∀ (f : Frame) (s : State), legalFrame f → ¬acceptsGrainFlow f → ¬acceptsHeaderInfo f →
    ∃ (k : ResKind) (h : BitVec 1), (k = .naPgn ∨ k = .naSource ∨ k = .naOpcode) ∧
      exec (.frame f) s = .next { s with out := .transaction ⟨k, h, 0⟩ (some (messageIn f)) }

/-- 10_state.md R25: only reset and an accepted frame write the accumulator, and an accepted frame exactly its own fields. -/
def Obligations.OnlyResetAndAcceptedFramesWriteTheAccumulator : Prop :=
  ∀ s t : State, step s = .next t →
    if isReset (nextInput s) then t.acc = ⟨0, 0, 0, 0, 0⟩
    else
      match offeredFrame (nextInput s) with
      | none => t.acc = s.acc
      | some f =>
        (acceptsGrainFlow f → t.acc = { s.acc with
          grainFlow := (payloadOf f).extractLsb' 16 16, grainMoisture := (payloadOf f).extractLsb' 32 16 }) ∧
        (acceptsHeaderInfo f → t.acc = { s.acc with
          headerWidth := (payloadOf f).extractLsb' 8 16
          headerRows := (payloadOf f).extractLsb' 48 8
          rowSpacing := (payloadOf f).extractLsb' 56 8 }) ∧
        (¬acceptsGrainFlow f → ¬acceptsHeaderInfo f → t.acc = s.acc)

/-- 10_state.md R28 (decision D10): each flag is set by its violation, stays set, and is cleared by RESET only; both flags
are set by a doubly illegal frame (60_exceptions.md R182, decision D9); no decode result depends on them. -/
def Obligations.FlagsAreStickyAndInfluenceNoDecode : Prop :=
  (∀ s t : State, step s = .next t →
    if isReset (nextInput s) then t.status = 0b00
    else
      match offeredFrame (nextInput s) with
      | none => t.status = s.status
      | some f =>
        (errId t.status = true ↔ errId s.status = true ∨ ¬legalId f.id) ∧
        (errLen t.status = true ↔ errLen s.status = true ∨ 8 < f.len.toNat)) ∧
  ∀ (s t : State) (p : Pins) (st : BitVec 2), nextInput s = .cycle p → step s = .next t →
    ∃ u, step { s with status := st } = .next u ∧ u.acc = t.acc ∧ u.out = t.out ∧ u.pending = t.pending

/-- 41_payload_assembler.md R108, 20_memory.md R61: PACK, the next state and every output are the same for all contents of the
bytes at or above the length. -/
def Obligations.StaleBytesNeverMatter : Prop :=
  (∀ (len : BitVec 8) (fb fb' : FrameBuffer),
    (bytesOf fb).take len.toNat = (bytesOf fb').take len.toNat → pack len fb = pack len fb') ∧
  ∀ (f g : Frame) (s : State), sameButStale f g → exec (.frame f) s = exec (.frame g) s

/-- 20_memory.md R57, R61: two runs whose frames differ at most in stale bytes end alike. -/
def Obligations.StaleBytesNeverMatterInARun : Prop :=
  ∀ (l l' : List Input) (s : State), List.Forall₂ sameInputsButStale l l' → runInputs l s = runInputs l' s

/-- 30_encoding.md R83 (derived there), 40_identifier_decoder.md R96: priority and capture time influence no register, no
flag and no result; they are carried in the message only. -/
def Obligations.PriorityAndTimeNeverMatter : Prop :=
  ∀ (f g : Frame) (s t u : State), sameButPriorityAndTime f g →
    exec (.frame f) s = .next t → exec (.frame g) s = .next u →
    t.acc = u.acc ∧ t.status = u.status ∧ t.pending = u.pending ∧ resOf t.out = resOf u.out ∧
      ∀ m, msgOf t.out = some m → m.priority = f.id.extractLsb' 26 3 ∧ m.timestamp = f.ts

/-- 60_exceptions.md R181: after a violation the next operation is done exactly as if it had not happened, but for the flags. -/
def Obligations.ViolationsDoNotDisturbLaterOperations : Prop :=
  ∀ (f : Frame) (x : Input) (s : State), ¬legalFrame f →
    ∃ t u : State, runInputs [offer f, x] s = .next t ∧ runInputs [x] s = .next u ∧
      t.acc = u.acc ∧ t.pending = u.pending ∧
      (isReset x = true → t = u) ∧
      (isReset x = false → ∃ st : BitVec 2, t.status = u.status ||| st) ∧
      (x = .snap → t.out = .snapshot s.acc t.status ∧ u.out = .snapshot s.acc s.status) ∧
      (x ≠ .snap → t.out = u.out)

/-- 44_telemetry_accumulator.md R155: the identical frame twice is the identical state. -/
def Obligations.ReplayIsIdempotent : Prop :=
  ∀ (f : Frame) (s : State), runInputs [offer f, offer f] s = runInputs [offer f] s

/-- 44_telemetry_accumulator.md R156: a header-info update leaves the grain-flow fields alone and the reverse, the masks are
disjoint, and the two commute. -/
def Obligations.TheTwoKindsOfUpdateAreIndependent : Prop :=
  (0b00011#5 &&& 0b11100#5 = 0) ∧
    ∀ (g h : Frame) (s : State), acceptsGrainFlow g → acceptsHeaderInfo h →
      ∃ a b ab ba : State,
        runInputs [offer g] s = .next a ∧ runInputs [offer h] s = .next b ∧
        runInputs [offer g, offer h] s = .next ab ∧ runInputs [offer h, offer g] s = .next ba ∧
        ab.acc = ba.acc ∧ ab.status = ba.status ∧
        b.acc.grainFlow = s.acc.grainFlow ∧ b.acc.grainMoisture = s.acc.grainMoisture ∧
        a.acc.headerWidth = s.acc.headerWidth ∧ a.acc.headerRows = s.acc.headerRows ∧
        a.acc.rowSpacing = s.acc.rowSpacing ∧
        ab.acc = ⟨a.acc.grainFlow, a.acc.grainMoisture, b.acc.headerWidth, b.acc.headerRows, b.acc.rowSpacing⟩

/-- 20_memory.md R57: the state after a sequence of operations is the left-to-right fold of the step over the sequence. -/
def Obligations.RunIsTheFoldOfTheStep : Prop :=
  ∀ (l : List Input) (s : State), runInputs l s = .next (l.foldl effect { s with pending := [] })

/-- 44_telemetry_accumulator.md R152: after any sequence without reset each field holds the value of the last frame that
carried it, or what it held before where none did; after a reset that is zero. -/
def Obligations.LastAcceptedFrameWins : Prop :=
  (∀ (l : List Input) (s : State), (∀ x ∈ l, isReset x = false) →
    ∃ t, runInputs l s = .next t ∧
      (match lastGrainFlow l with
        | none => t.acc.grainFlow = s.acc.grainFlow ∧ t.acc.grainMoisture = s.acc.grainMoisture
        | some f => t.acc.grainFlow = (payloadOf f).extractLsb' 16 16 ∧
            t.acc.grainMoisture = (payloadOf f).extractLsb' 32 16) ∧
      (match lastHeaderInfo l with
        | none => t.acc.headerWidth = s.acc.headerWidth ∧ t.acc.headerRows = s.acc.headerRows ∧
            t.acc.rowSpacing = s.acc.rowSpacing
        | some f => t.acc.headerWidth = (payloadOf f).extractLsb' 8 16 ∧
            t.acc.headerRows = (payloadOf f).extractLsb' 48 8 ∧ t.acc.rowSpacing = (payloadOf f).extractLsb' 56 8)) ∧
  ∀ (x : Input) (l : List Input) (s : State), isReset x = true → (∀ y ∈ l, isReset y = false) →
    ∃ t, runInputs (x :: l) s = .next t ∧
      (lastGrainFlow l = none → t.acc.grainFlow = 0 ∧ t.acc.grainMoisture = 0) ∧
      (lastHeaderInfo l = none → t.acc.headerWidth = 0 ∧ t.acc.headerRows = 0 ∧ t.acc.rowSpacing = 0)

/-! ### Invariants -/

/-- The output ports agree with the registers at reset (10_state.md R35, R38). -/
def Obligations.InvariantHoldsAtReset : Prop := Inv State.reset

/-- From any state in which the output ports agree with the registers, a step gives one in which they do (10_state.md R33, R35,
45_block_operations.md R163, R166). -/
def Obligations.StepKeepsTheInvariant : Prop := ∀ s t : State, Inv s → step s = .next t → Inv t

/-- 10_state.md R29: what an operation put out is no state: no operation reads it (log entry 2). -/
def Obligations.OutputsAreNeverRead : Prop :=
  ∀ (s : State) (o : Output), step { s with out := o } = step s

/-! ### The rows of stages 1 and 2 -/

/-- 60_exceptions.md R176, R178, R182 (decisions D8 to D10): the INVALID_ID rows set `ERR_ID`, and `ERR_LEN` when the length is
above 8, and report kind 5 with no message; nothing else changes. -/
def Obligations.InvalidIdRowsTakeTheViolation : Prop :=
  ∀ (id : CanId) (len : BitVec 8) (s : State) (i : Instr),
    i = .invalidIdB31 id len ∨ i = .invalidIdB30 id len ∨ i = .invalidIdB29 id len →
    exec i s = .next { s with
      status := s.status ||| (if 8 < len.toNat then 0b11 else 0b01)
      out := .transaction ⟨.errInvalidIdentifier, 0, 0⟩ none }

/-- 60_exceptions.md R177, R179 (decisions D8, D10): the FRAME_TOO_LONG rows set `ERR_LEN` and report kind 6 with no message;
nothing else changes. -/
def Obligations.FrameTooLongRowsTakeTheViolation : Prop :=
  ∀ (id : CanId) (len : BitVec 8) (s : State) (i : Instr),
    i = .frameTooLongB7 id len ∨ i = .frameTooLongB6 id len ∨ i = .frameTooLongB5 id len ∨ i = .frameTooLongB4 id len ∨
      i = .frameTooLongB3b2 id len ∨ i = .frameTooLongB3b1 id len ∨ i = .frameTooLongB3b0 id len →
    exec i s = .next { s with
      status := s.status ||| 0b10
      out := .transaction ⟨.errFrameTooLong, 0, 0⟩ none }

/-- 43_signal_decoders.md R131 to R134: the GRAINFLOW row writes its two fields and nothing else but the outputs. -/
def Obligations.GrainflowRowWritesItsTwoFields : Prop :=
  ∀ (priority : Priority) (flowRaw moistRaw ignored : BitVec 16) (ts : Timestamp) (s : State),
    exec (.grainflow priority flowRaw moistRaw ignored ts) s = .next { s with
      acc := { s.acc with grainFlow := flowRaw, grainMoisture := moistRaw }
      out := .transaction ⟨.updated, 0, 0b00011⟩ (some
        { pgn := 61184, source := 211, priority := priority,
          payload := ignored ++ moistRaw ++ flowRaw ++ 2383#16, timestamp := ts }) }

/-- 43_signal_decoders.md R130, R131, R143 (the last decision D15): the two rejections on PGN 61184 change the outputs only. -/
def Obligations.GrainFlowRejectionsChangeOutputsOnly : Prop :=
  ∀ (priority : Priority) (source : SourceAddr) (payload : Payload) (ts : Timestamp) (s : State),
    exec (.gfNaOpcode priority payload ts) s = .next { s with
      out := .transaction ⟨.naOpcode, 0, 0⟩ (some ⟨61184, 211, priority, payload, ts⟩) } ∧
    exec (.gfNaSource priority source payload ts) s = .next { s with
      out := .transaction ⟨.naSource, 0, 0⟩ (some ⟨61184, source, priority, payload, ts⟩) }

/-- 43_signal_decoders.md R136 to R141: the three HEADERINFO rows write their three fields and nothing else but the outputs. -/
def Obligations.HeaderinfoRowsWriteTheirThreeFields : Prop :=
  ∀ (priority : Priority) (widthRaw : BitVec 16) (ignored : BitVec 24) (rowsRaw spacingRaw : BitVec 8) (ts : Timestamp)
    (s : State) (i : Instr) (source : SourceAddr),
    (i = .headerinfoS211 priority widthRaw ignored rowsRaw spacingRaw ts ∧ source = 211) ∨
      (i = .headerinfoS234 priority widthRaw ignored rowsRaw spacingRaw ts ∧ source = 234) ∨
      (i = .headerinfoS242 priority widthRaw ignored rowsRaw spacingRaw ts ∧ source = 242) →
    exec i s = .next { s with
      acc := { s.acc with headerWidth := widthRaw, headerRows := rowsRaw, rowSpacing := spacingRaw }
      out := .transaction ⟨.updated, 1, 0b11100⟩ (some
        { pgn := 65535, source := source, priority := priority,
          payload := spacingRaw ++ rowsRaw ++ ignored ++ widthRaw ++ 24#8, timestamp := ts }) }

/-- 43_signal_decoders.md R136, R137, R143 (the last decision D15): the four rejections on PGN 65535 change the outputs only. -/
def Obligations.HeaderInfoRejectionsChangeOutputsOnly : Prop :=
  ∀ (priority : Priority) (source : SourceAddr) (payload : Payload) (ts : Timestamp) (s : State),
    exec (.hiNaOpcodeS211 priority payload ts) s = .next { s with
      out := .transaction ⟨.naOpcode, 1, 0⟩ (some ⟨65535, 211, priority, payload, ts⟩) } ∧
    exec (.hiNaOpcodeS234 priority payload ts) s = .next { s with
      out := .transaction ⟨.naOpcode, 1, 0⟩ (some ⟨65535, 234, priority, payload, ts⟩) } ∧
    exec (.hiNaOpcodeS242 priority payload ts) s = .next { s with
      out := .transaction ⟨.naOpcode, 1, 0⟩ (some ⟨65535, 242, priority, payload, ts⟩) } ∧
    exec (.hiNaSource priority source payload ts) s = .next { s with
      out := .transaction ⟨.naSource, 1, 0⟩ (some ⟨65535, source, priority, payload, ts⟩) }

/-- 42_pgn_dispatcher.md R119: a PGN that is no key gives no update, whatever the source and the payload; the IGNORE row shows
the message and changes nothing else. -/
def Obligations.UnknownPgnIsIgnored : Prop :=
  (∀ msg : CanMessage, msg.pgn ≠ 61184 → msg.pgn ≠ 65535 → dispatch table msg = .naPgn) ∧
    ∀ (priority : Priority) (pgn : Pgn) (source : SourceAddr) (payload : Payload) (ts : Timestamp) (s : State),
      exec (.ignore priority pgn source payload ts) s = .next { s with
        out := .transaction ⟨.naPgn, 0, 0⟩ (some
          { pgn := pgn.setWidth 32, source := source, priority := priority, payload := payload, timestamp := ts }) }
end

