-- ==== Sys2Proof/Laws/Operands.lean ====
section
/-! SUPPORT. What the operand functions give, in slices of the input. -/

namespace Sys2Proof.Laws

open Sys2Proof.Machine Sys2Proof.Config

/-! ### The named widths as powers of two -/

theorem two_pow_byteW : 2 ^ byteW = 256 := rfl
theorem two_pow_payloadW : 2 ^ payloadW = 18446744073709551616 := rfl
theorem two_pow_pgnW : 2 ^ pgnW = 262144 := rfl
theorem two_pow_srcW : 2 ^ srcW = 256 := rfl

theorem byte_lt (b : Byte) : b.toNat < 256 := b.isLt
theorem canId_lt (id : CanId) : id.toNat < 4294967296 := id.isLt
theorem length_lt (len : Length) : len.toNat < 256 := len.isLt
theorem priority_lt (pr : Priority) : pr.toNat < 8 := pr.isLt
theorem pgn_lt (pgn : Pgn) : pgn.toNat < 262144 := pgn.isLt
theorem sourceAddr_lt (src : SourceAddr) : src.toNat < 256 := src.isLt
theorem payload_lt (p : Payload) : p.toNat < 18446744073709551616 := p.isLt

/-! ### Slices -/

/-- A slice as a number. -/
theorem slice_toNat {n : Nat} (x : BitVec n) (start width : Nat) :
    (x.extractLsb' start width).toNat = x.toNat / 2 ^ start % 2 ^ width := by
  simp [BitVec.extractLsb'_toNat, Nat.shiftRight_eq_div_pow]

/-- The bits of a word that a shift and a mask leave, as a number. -/
theorem bitField_toNat {n : Nat} (x : BitVec n) (start width : Nat) (h : width ≤ n) :
    (bitField x start width).toNat = x.toNat / 2 ^ start % 2 ^ width := by
  have hw : 2 ^ width - 1 < 2 ^ n := by
    have := Nat.pow_le_pow_right (show 0 < 2 by decide) h
    have := Nat.two_pow_pos width
    omega
  rw [bitField, BitVec.toNat_and, BitVec.toNat_ofNat, Nat.mod_eq_of_lt hw, Nat.and_two_pow_sub_one_eq_mod,
    BitVec.toNat_ushiftRight, Nat.shiftRight_eq_div_pow]

/-- They are the slice zero-extended. -/
theorem bitField_eq_slice {n : Nat} (x : BitVec n) (start width : Nat) (h : width ≤ n) :
    bitField x start width = (x.extractLsb' start width).setWidth n := by
  apply BitVec.eq_of_toNat_eq
  rw [bitField_toNat x start width h, BitVec.toNat_setWidth, slice_toNat]
  exact (Nat.mod_eq_of_lt
    (Nat.lt_of_lt_of_le (Nat.mod_lt _ (Nat.two_pow_pos _)) (Nat.pow_le_pow_right (by decide) h))).symm

/-- Narrowed to their own width they are the slice. -/
theorem bitField_setWidth {n : Nat} (x : BitVec n) (start width : Nat) (h : width ≤ n) :
    (bitField x start width).setWidth width = x.extractLsb' start width := by
  rw [bitField_eq_slice x start width h, BitVec.setWidth_setWidth_of_le _ h, BitVec.setWidth_eq]

/-! ### Identifier -/

theorem idIllegal_eq (id : CanId) : idIllegal id = decide (id.extractLsb' 29 3 ≠ 0) := by
  have hlt := canId_lt id
  have h := slice_toNat id 29 3
  simp only [idIllegal, ne_eq, BitVec.lt_def, decide_eq_decide, ← BitVec.toNat_inj, h]
  rw [show maxId.toNat = 536870911 from rfl, show (0 : BitVec 3).toNat = 0 from rfl]
  omega

theorem lenIllegal_eq (len : Length) : lenIllegal len = decide (8 < len.toNat) := by
  simp [lenIllegal, maxLen, BitVec.lt_def]

@[simp] theorem idFields_priority (id : CanId) : (idFields id).priority = id.extractLsb' 26 3 :=
  bitField_setWidth id 26 3 (by decide)

@[simp] theorem idFields_pgn (id : CanId) : (idFields id).pgn = (id.extractLsb' 8 18).setWidth 32 :=
  (BitVec.setWidth_eq _).trans (bitField_eq_slice id 8 18 (by decide))

@[simp] theorem idFields_source (id : CanId) : (idFields id).source = id.extractLsb' 0 8 :=
  bitField_setWidth id 0 8 (by decide)

/-- The whole of IDDEC, in slices. -/
theorem iddec_eq (id : CanId) :
    iddec id = if id.extractLsb' 29 3 ≠ 0 then .error .invalidIdentifier
      else .ok ⟨id.extractLsb' 26 3, (id.extractLsb' 8 18).setWidth 32, id.extractLsb' 0 8⟩ := by
  have h : idFields id = ⟨id.extractLsb' 26 3, (id.extractLsb' 8 18).setWidth 32, id.extractLsb' 0 8⟩ := by
    rw [← idFields_priority, ← idFields_pgn, ← idFields_source]
  rw [iddec, idIllegal_eq, h]
  simp

/-! ### Fields -/

/-- FIELD is the slice, as an unsigned number. -/
theorem field_toNat (p : Payload) (start width : Nat) (h : width ≤ 64) :
    (field p start width).toNat = p.toNat / 2 ^ start % 2 ^ width := bitField_toNat p start width h

/-- FIELD is the slice zero-extended. -/
theorem field_eq_slice (p : Payload) (start width : Nat) (h : width ≤ 64) :
    field p start width = (p.extractLsb' start width).setWidth 64 := bitField_eq_slice p start width h

/-- A field narrowed to its own width is the slice. -/
theorem field_setWidth (p : Payload) (start width : Nat) (h : width ≤ 64) :
    (field p start width).setWidth width = p.extractLsb' start width := bitField_setWidth p start width h

/-! ### Payload -/

/-- Appending below multiplies and adds. -/
theorem append_toNat {n m : Nat} (x : BitVec n) (y : BitVec m) : (x ++ y).toNat = x.toNat * 2 ^ m + y.toNat := by
  rw [BitVec.toNat_append, ← Nat.shiftLeft_add_eq_or_of_lt y.isLt, Nat.shiftLeft_eq]

/-- The number that bytes make, the first the least significant. -/
def leNat : List Byte → Nat
  | [] => 0
  | b :: bs => b.toNat + 2 ^ 8 * leNat bs

theorem leNat_lt (l : List Byte) : leNat l < 2 ^ (8 * l.length) := by
  induction l with
  | nil => decide
  | cons b bs ih =>
    have := byte_lt b
    rw [leNat, List.length_cons, Nat.mul_succ, Nat.add_comm (8 * bs.length), Nat.pow_add]
    omega

/-- Up to eight bytes fit the payload scalar, so nothing wraps. -/
theorem littleEndian_toNat (l : List Byte) (h : l.length ≤ 8) : (littleEndian l).toNat = leNat l := by
  induction l with
  | nil => rfl
  | cons b bs ih =>
    have hlt : leNat (b :: bs) < 2 ^ 64 :=
      Nat.lt_of_lt_of_le (leNat_lt _) (Nat.pow_le_pow_right (by decide) (by omega))
    have hb := byte_lt b
    rw [leNat] at hlt ⊢
    rw [littleEndian, BitVec.toNat_add, BitVec.toNat_shiftLeft, BitVec.toNat_setWidth,
      ih (by simp only [List.length_cons] at h; omega), Nat.shiftLeft_eq, two_pow_byteW, two_pow_payloadW]
    omega

/-- Dropping bytes divides. -/
theorem leNat_drop (l : List Byte) (i : Nat) : leNat (l.drop i) = leNat l / 2 ^ (8 * i) := by
  induction i generalizing l with
  | zero => simp
  | succ i ih =>
    cases l with
    | nil => simp [leNat]
    | cons b bs =>
      have := byte_lt b
      rw [List.drop_succ_cons, ih, leNat, Nat.mul_succ, Nat.add_comm (8 * i), Nat.pow_add, ← Nat.div_div_eq_div_mul]
      congr 1
      omega

/-- Taking bytes leaves a remainder. -/
theorem leNat_take (l : List Byte) (n : Nat) : leNat (l.take n) = leNat l % 2 ^ (8 * n) := by
  induction n generalizing l with
  | zero => simp [leNat, Nat.mod_one]
  | succ n ih =>
    cases l with
    | nil => simp [leNat]
    | cons b bs =>
      have := byte_lt b
      rw [List.take_succ_cons, leNat, leNat, ih, Nat.mul_succ, Nat.add_comm (8 * n), Nat.pow_add, Nat.mod_mul,
        Nat.add_mul_mod_self_left, Nat.mod_eq_of_lt (b := 2 ^ 8) this, Nat.add_mul_div_left _ _ (by decide),
        Nat.div_eq_of_lt (b := 2 ^ 8) this,
        Nat.zero_add]

/-- A frame read as a number: the bytes below it divided away, those above it cut off (20_memory.md R48). -/
theorem memRead_toNat (len : Length) (fb : FrameBuffer) (i n : Nat) (h : i + n ≤ 8) :
    (memRead len fb i n).toNat = leNat (lanes len fb) / 2 ^ (8 * i) % 2 ^ (8 * n) := by
  rw [memRead, littleEndian_toNat _ (by rw [List.length_take]; omega), leNat_take, leNat_drop]

/-- Eight bytes read little-endian are those bytes side by side, the first lowest (20_memory.md R47). -/
theorem littleEndian_eight (a b c d e f g h : Byte) :
    littleEndian [a, b, c, d, e, f, g, h] = (h ++ g ++ f ++ e ++ d ++ c ++ b ++ a : BitVec 64) := by
  apply BitVec.eq_of_toNat_eq
  have := byte_lt h; have := byte_lt g; have := byte_lt f; have := byte_lt e
  have := byte_lt d; have := byte_lt c; have := byte_lt b; have := byte_lt a
  simp only [littleEndian, BitVec.toNat_add, BitVec.toNat_setWidth, BitVec.toNat_shiftLeft, Nat.shiftLeft_eq, append_toNat,
    two_pow_byteW, two_pow_payloadW]
  rw [show (0 : Payload).toNat = 0 from rfl]
  omega

/-- The payload as its eight lanes (20_memory.md R47). -/
theorem memRead_eq_lanes (len : Length) (fb : FrameBuffer) :
    memRead len fb 0 8 = (lane len 7 fb.b7 ++ lane len 6 fb.b6 ++ lane len 5 fb.b5 ++ lane len 4 fb.b4 ++
      lane len 3 fb.b3 ++ lane len 2 fb.b2 ++ lane len 1 fb.b1 ++ lane len 0 fb.b0 : BitVec 64) :=
  littleEndian_eight ..

/-- The slices of a payload that the handlers cut, in lanes (20_memory.md R49). -/
theorem payload_slices (len : Length) (fb : FrameBuffer) :
    let p := memRead len fb 0 8
    p.extractLsb' 0 8 = lane len 0 fb.b0 ∧ p.extractLsb' 0 16 = lane len 1 fb.b1 ++ lane len 0 fb.b0 ∧
      p.extractLsb' 16 16 = lane len 3 fb.b3 ++ lane len 2 fb.b2 ∧
      p.extractLsb' 32 16 = lane len 5 fb.b5 ++ lane len 4 fb.b4 ∧
      p.extractLsb' 8 16 = lane len 2 fb.b2 ++ lane len 1 fb.b1 ∧
      p.extractLsb' 48 8 = lane len 6 fb.b6 ∧ p.extractLsb' 56 8 = lane len 7 fb.b7 := by
  have := byte_lt (lane len 0 fb.b0); have := byte_lt (lane len 1 fb.b1); have := byte_lt (lane len 2 fb.b2)
  have := byte_lt (lane len 3 fb.b3); have := byte_lt (lane len 4 fb.b4); have := byte_lt (lane len 5 fb.b5)
  have := byte_lt (lane len 6 fb.b6); have := byte_lt (lane len 7 fb.b7)
  rw [memRead_eq_lanes]
  refine ⟨?_, ?_, ?_, ?_, ?_, ?_, ?_⟩ <;> apply BitVec.eq_of_toNat_eq <;>
    simp only [slice_toNat, append_toNat, two_pow_byteW] <;> omega

/-- The whole of PACK. -/
theorem pack_eq (len : Length) (fb : FrameBuffer) :
    pack len fb = if 8 < len.toNat then .error .frameTooLong else .ok (memRead len fb 0 8) := by
  rw [pack, lenIllegal_eq]
  simp

/-! ### The named fields of the two payload formats, by number -/

@[simp] theorem gfOpcode_eq (p : Payload) : gfOpcode p = p.extractLsb' 0 16 := rfl
@[simp] theorem gfFlow_eq (p : Payload) : gfFlow p = p.extractLsb' 16 16 := rfl
@[simp] theorem gfMoisture_eq (p : Payload) : gfMoisture p = p.extractLsb' 32 16 := rfl
@[simp] theorem gfIgnored_eq (p : Payload) : gfIgnored p = p.extractLsb' 48 16 := rfl
@[simp] theorem hiOpcode_eq (p : Payload) : hiOpcode p = p.extractLsb' 0 8 := rfl
@[simp] theorem hiWidth_eq (p : Payload) : hiWidth p = p.extractLsb' 8 16 := rfl
@[simp] theorem hiIgnored_eq (p : Payload) : hiIgnored p = p.extractLsb' 24 24 := rfl
@[simp] theorem hiRows_eq (p : Payload) : hiRows p = p.extractLsb' 48 8 := rfl
@[simp] theorem hiSpacing_eq (p : Payload) : hiSpacing p = p.extractLsb' 56 8 := rfl

/-! ### Words put together -/

theorem opcGf_toNat : opcGf.toNat = 2383 := rfl
theorem opcHi_toNat : opcHi.toNat = 24 := rfl

/-- A grain-flow payload as a number (30_encoding.md R74). -/
theorem gfPayload_toNat (fl mo ig : BitVec 16) :
    (gfPayload fl mo ig).toNat = ((ig.toNat * 2 ^ 16 + mo.toNat) * 2 ^ 16 + fl.toNat) * 2 ^ 16 + 2383 := by
  have := fl.isLt; have := mo.isLt; have := ig.isLt
  change (place 64 48 ig + place 64 32 mo + place 64 16 fl + place 64 0 (2383 : BitVec 16)).toNat = _
  simp only [place, BitVec.toNat_add, BitVec.toNat_shiftLeft, BitVec.toNat_setWidth, Nat.shiftLeft_eq,
    show (2383 : BitVec 16).toNat = 2383 from rfl]
  omega

/-- Its fields side by side. -/
theorem gfPayload_eq_append (fl mo ig : BitVec 16) : gfPayload fl mo ig = (ig ++ mo ++ fl ++ 2383#16 : BitVec 64) := by
  apply BitVec.eq_of_toNat_eq
  rw [gfPayload_toNat, append_toNat, append_toNat, append_toNat]
  rfl

/-- A header-info payload as a number (30_encoding.md R75). -/
theorem hiPayload_toNat (wd : BitVec 16) (ig : BitVec 24) (ro sp : BitVec 8) :
    (hiPayload wd ig ro sp).toNat =
      (((sp.toNat * 2 ^ 8 + ro.toNat) * 2 ^ 24 + ig.toNat) * 2 ^ 16 + wd.toNat) * 2 ^ 8 + 24 := by
  have := wd.isLt; have := ig.isLt; have := ro.isLt; have := sp.isLt
  change (place 64 56 sp + place 64 48 ro + place 64 24 ig + place 64 8 wd + place 64 0 (24 : BitVec 8)).toNat = _
  simp only [place, BitVec.toNat_add, BitVec.toNat_shiftLeft, BitVec.toNat_setWidth, Nat.shiftLeft_eq,
    show (24 : BitVec 8).toNat = 24 from rfl]
  omega

/-- Its fields side by side. -/
theorem hiPayload_eq_append (wd : BitVec 16) (ig : BitVec 24) (ro sp : BitVec 8) :
    hiPayload wd ig ro sp = (sp ++ ro ++ ig ++ wd ++ 24#8 : BitVec 64) := by
  apply BitVec.eq_of_toNat_eq
  rw [hiPayload_toNat, append_toNat, append_toNat, append_toNat, append_toNat]
  rfl

/-- Placing below 2^`n` multiplies. -/
theorem place_toNat {w : Nat} (n start : Nat) (x : BitVec w) (h : x.toNat * 2 ^ start < 2 ^ n) :
    (place n start x).toNat = x.toNat * 2 ^ start := by
  have hx : x.toNat < 2 ^ n := Nat.lt_of_le_of_lt (Nat.le_mul_of_pos_right _ (Nat.two_pow_pos _)) h
  rw [place, BitVec.toNat_shiftLeft, BitVec.toNat_setWidth, Nat.mod_eq_of_lt hx, Nat.shiftLeft_eq, Nat.mod_eq_of_lt h]

/-- An identifier word as a number (40_identifier_decoder.md R100). -/
theorem idWord_toNat (pr : Priority) (pgn : Pgn) (src : SourceAddr) :
    (idWord pr pgn src).toNat = (pr.toNat * 2 ^ 18 + pgn.toNat) * 2 ^ 8 + src.toNat := by
  have hp := priority_lt pr
  have hg := pgn_lt pgn
  have hs := sourceAddr_lt src
  change (place 32 26 pr ||| place 32 8 pgn ||| place 32 0 src).toNat = _
  rw [BitVec.toNat_or, BitVec.toNat_or, place_toNat _ _ _ (by omega), place_toNat _ _ _ (by omega),
    place_toNat _ _ _ (by omega), ← Nat.shiftLeft_eq _ 26, ← Nat.shiftLeft_add_eq_or_of_lt (by omega), Nat.shiftLeft_eq,
    show pr.toNat * 2 ^ 26 + pgn.toNat * 2 ^ 8 = (pr.toNat * 2 ^ 18 + pgn.toNat) <<< 8 by rw [Nat.shiftLeft_eq]; omega,
    ← Nat.shiftLeft_add_eq_or_of_lt (by omega), Nat.shiftLeft_eq]
  omega

/-- A buffer written from a payload reads back as that payload (20_memory.md R47). -/
theorem memRead_bufferOf (p : Payload) : memRead maxLen (bufferOf p) 0 8 = p := by
  rw [memRead_eq_lanes]
  apply BitVec.eq_of_toNat_eq
  have := payload_lt p
  have hl (j : Nat) (hj : j < 8) (b : Byte) : lane maxLen j b = b := if_pos hj
  rw [hl 0 (by decide), hl 1 (by decide), hl 2 (by decide), hl 3 (by decide), hl 4 (by decide), hl 5 (by decide),
    hl 6 (by decide), hl 7 (by decide)]
  simp only [append_toNat, bufferOf, payloadByte, slice_toNat, two_pow_byteW, byteW, Nat.reduceMul, Nat.reducePow]
  omega

end Sys2Proof.Laws
end

