-- ==== Sys2Proof/Laws/Decode.lean ====
section
/-! SUPPORT. The decoder on words put together from their fields: the hub is `decodeFw_fwWord` and `decodeRaw_rawWord`, which
read the two tables as tests of fields. -/

namespace Sys2Proof.Laws

open Sys2Proof.Machine Sys2Proof.Config

/-! ### CTL2 -/

/-- Stage 0 on the pins: reset first, then the offered frame (30_encoding.md R77). -/
theorem decodePins_eq (p : Pins) :
    decodePins p = if p.rst then .reset else if p.frameValid then .frame p.frame else .idle := by
  have first : ∀ r v : Bool, fits (ctlWord r v) rowReset rowReset = r := by decide
  have second : ∀ v : Bool, fits (ctlWord false v) maskIdle matchIdle = !v := by decide
  obtain ⟨r, v, f⟩ := p
  rw [decodePins, decodeCtl, first]
  cases r
  · rw [second]; cases v <;> rfl
  · rfl

/-! ### The fields of FW93 -/

/-- A frame word is its four fields side by side (30_encoding.md R79). -/
theorem fwWord_eq_append (pr : BitVec 3) (pgn : BitVec 18) (src : BitVec 8) (p : BitVec 64) :
    fwWord pr pgn src p = (pr ++ pgn ++ src ++ p : BitVec 93) := by
  have hi : (idWord pr pgn src).extractLsb' 0 29 = (pr ++ pgn ++ src : BitVec 29) := by
    have := pr.isLt; have := pgn.isLt; have := src.isLt
    apply BitVec.eq_of_toNat_eq
    rw [slice_toNat, idWord_toNat, append_toNat, append_toNat]
    omega
  exact congrArg (fun x : BitVec 29 => (x ++ p : BitVec 93)) hi

theorem fwWord_toNat (pr : Priority) (pgn : Pgn) (src : SourceAddr) (p : Payload) :
    (fwWord pr pgn src p).toNat = ((pr.toNat * 2 ^ 18 + pgn.toNat) * 2 ^ 8 + src.toNat) * 2 ^ 64 + p.toNat := by
  simp only [fwWord_eq_append, append_toNat, two_pow_payloadW, two_pow_srcW, two_pow_pgnW]

/-! The four fields as slices of the word, by number. -/

theorem fwPriority_toNat (w : BitVec 93) : (fwPriority w).toNat = w.toNat / 2 ^ 90 % 2 ^ 3 := slice_toNat w 90 3
theorem fwPgn_toNat (w : BitVec 93) : (fwPgn w).toNat = w.toNat / 2 ^ 72 % 2 ^ 18 := slice_toNat w 72 18
theorem fwSource_toNat (w : BitVec 93) : (fwSource w).toNat = w.toNat / 2 ^ 64 % 2 ^ 8 := slice_toNat w 64 8
theorem fwPayload_toNat (w : BitVec 93) : (fwPayload w).toNat = w.toNat / 2 ^ 0 % 2 ^ 64 := slice_toNat w 0 64

/-- The identifier of a frame word is legal: it has 29 bits. -/
theorem fwId_toNat (w : BitVec 93) : (fwId w).toNat = w.toNat / 2 ^ 64 % 2 ^ 29 := by
  rw [← slice_toNat w 64 29]
  exact (BitVec.toNat_setWidth 32 _).trans (Nat.mod_eq_of_lt (Nat.lt_of_lt_of_le (BitVec.isLt _) (by decide)))

@[simp] theorem fwPriority_fwWord (pr : Priority) (pgn : Pgn) (src : SourceAddr) (p : Payload) :
    fwPriority (fwWord pr pgn src p) = pr := by
  apply BitVec.eq_of_toNat_eq
  have := priority_lt pr; have := pgn_lt pgn; have := sourceAddr_lt src; have := payload_lt p
  rw [fwPriority_toNat, fwWord_toNat]
  omega

@[simp] theorem fwPgn_fwWord (pr : Priority) (pgn : Pgn) (src : SourceAddr) (p : Payload) :
    fwPgn (fwWord pr pgn src p) = pgn := by
  apply BitVec.eq_of_toNat_eq
  have := priority_lt pr; have := pgn_lt pgn; have := sourceAddr_lt src; have := payload_lt p
  rw [fwPgn_toNat, fwWord_toNat]
  omega

@[simp] theorem fwSource_fwWord (pr : Priority) (pgn : Pgn) (src : SourceAddr) (p : Payload) :
    fwSource (fwWord pr pgn src p) = src := by
  apply BitVec.eq_of_toNat_eq
  have := priority_lt pr; have := pgn_lt pgn; have := sourceAddr_lt src; have := payload_lt p
  rw [fwSource_toNat, fwWord_toNat]
  omega

@[simp] theorem fwPayload_fwWord (pr : Priority) (pgn : Pgn) (src : SourceAddr) (p : Payload) :
    fwPayload (fwWord pr pgn src p) = p := by
  apply BitVec.eq_of_toNat_eq
  have := priority_lt pr; have := pgn_lt pgn; have := sourceAddr_lt src; have := payload_lt p
  rw [fwPayload_toNat, fwWord_toNat]
  omega

/-- A frame word is its fields put together. -/
theorem fwWord_fields (w : BitVec 93) : fwWord (fwPriority w) (fwPgn w) (fwSource w) (fwPayload w) = w := by
  apply BitVec.eq_of_toNat_eq
  have := w.isLt
  rw [fwWord_toNat, fwPriority_toNat, fwPgn_toNat, fwSource_toNat, fwPayload_toNat]
  omega

theorem fwWord_and (pr pr' : Priority) (pgn pgn' : Pgn) (src src' : SourceAddr) (p p' : Payload) :
    fwWord pr pgn src p &&& fwWord pr' pgn' src' p' = fwWord (pr &&& pr') (pgn &&& pgn') (src &&& src') (p &&& p') := by
  rw [fwWord_eq_append, fwWord_eq_append, fwWord_eq_append, BitVec.and_append, BitVec.and_append, BitVec.and_append]

theorem fwWord_inj (pr pr' : Priority) (pgn pgn' : Pgn) (src src' : SourceAddr) (p p' : Payload) :
    fwWord pr pgn src p = fwWord pr' pgn' src' p' ↔ pr = pr' ∧ pgn = pgn' ∧ src = src' ∧ p = p' := by
  constructor
  · intro h
    exact ⟨by simpa using congrArg fwPriority h, by simpa using congrArg fwPgn h, by simpa using congrArg fwSource h,
      by simpa using congrArg fwPayload h⟩
  · rintro ⟨rfl, rfl, rfl, rfl⟩; rfl

theorem and_nought {n : Nat} (x : BitVec n) : x &&& 0 = 0 := BitVec.and_zero

/-- A row of stage 2, field by field; no row looks at the priority. -/
theorem fits_fwWord (pr : Priority) (pgn mpgn vpgn : Pgn) (src msrc vsrc : SourceAddr) (p mp vp : Payload) :
    fits (fwWord pr pgn src p) (fwWord 0 mpgn msrc mp) (fwWord 0 vpgn vsrc vp) =
      decide (pgn &&& mpgn = vpgn ∧ src &&& msrc = vsrc ∧ p &&& mp = vp) := by
  rw [Bool.eq_iff_iff, fits, beq_iff_eq, decide_eq_true_iff, fwWord_and, fwWord_inj, and_nought]
  exact and_iff_right rfl

/-- The low `k` bits of a payload masked out and compared. -/
theorem and_low16 (p : BitVec 64) (v : BitVec 16) : p &&& 0xFFFF = v.setWidth 64 ↔ p.extractLsb' 0 16 = v := by
  have := p.isLt; have := v.isLt
  rw [← BitVec.toNat_inj, ← BitVec.toNat_inj, slice_toNat, BitVec.toNat_and,
    show (0xFFFF : Payload).toNat = 2 ^ 16 - 1 from rfl, Nat.and_two_pow_sub_one_eq_mod, BitVec.toNat_setWidth]
  omega

theorem and_low8 (p : BitVec 64) (v : BitVec 8) : p &&& 0xFF = v.setWidth 64 ↔ p.extractLsb' 0 8 = v := by
  have := p.isLt; have := v.isLt
  rw [← BitVec.toNat_inj, ← BitVec.toNat_inj, slice_toNat, BitVec.toNat_and,
    show (0xFF : Payload).toNat = 2 ^ 8 - 1 from rfl, Nat.and_two_pow_sub_one_eq_mod, BitVec.toNat_setWidth]
  omega

theorem fits_maskPgn (pr : Priority) (pgn v : Pgn) (src : SourceAddr) (p : Payload) :
    fits (fwWord pr pgn src p) maskPgn (fwWord 0 v 0 0) = decide (pgn = v) := by
  simp only [maskPgn, fits_fwWord, BitVec.and_allOnes, and_nought, and_true]

theorem fits_maskPgnSource (pr : Priority) (pgn v : Pgn) (src sv : SourceAddr) (p : Payload) :
    fits (fwWord pr pgn src p) maskPgnSource (fwWord 0 v sv 0) = decide (pgn = v ∧ src = sv) := by
  simp only [maskPgnSource, fits_fwWord, BitVec.and_allOnes, and_nought, and_true]

theorem fits_maskGf (pr : Priority) (pgn v : Pgn) (src sv : SourceAddr) (p : Payload) (o : BitVec 16) :
    fits (fwWord pr pgn src p) maskGf (fwWord 0 v sv (o.setWidth 64)) =
      decide (pgn = v ∧ src = sv ∧ p.extractLsb' 0 16 = o) := by
  simp only [maskGf, fits_fwWord, BitVec.and_allOnes, show place payloadW gfOpcodeLo (BitVec.allOnes gfOpcodeW) = 0xFFFF from rfl,
    and_low16]

theorem fits_maskHi (pr : Priority) (pgn v : Pgn) (src sv : SourceAddr) (p : Payload) (o : BitVec 8) :
    fits (fwWord pr pgn src p) maskHi (fwWord 0 v sv (o.setWidth 64)) =
      decide (pgn = v ∧ src = sv ∧ p.extractLsb' 0 8 = o) := by
  simp only [maskHi, fits_fwWord, BitVec.and_allOnes, show place payloadW hiOpcodeLo (BitVec.allOnes hiOpcodeW) = 0xFF from rfl,
    and_low8]

/-- Stage 2 as tests of the PGN, then the source, then the opcode (30_encoding.md R80). -/
theorem decodeFw_fwWord (pr : Priority) (pgn : Pgn) (src : SourceAddr) (p : Payload) (ts : Timestamp) :
    decodeFw (fwWord pr pgn src p) ts =
      if pgn = pgnGf then
        if src = srcGf then
          if p.extractLsb' 0 16 = opcGf then
            .grainflow pr (p.extractLsb' 16 16) (p.extractLsb' 32 16) (p.extractLsb' 48 16) ts
          else .gfNaOpcode pr p ts
        else .gfNaSource pr src p ts
      else if pgn = pgnHi then
        if src = srcHi1 then
          if p.extractLsb' 0 8 = opcHi then
            .headerinfoS211 pr (p.extractLsb' 8 16) (p.extractLsb' 24 24) (p.extractLsb' 48 8) (p.extractLsb' 56 8) ts
          else .hiNaOpcodeS211 pr p ts
        else if src = srcHi2 then
          if p.extractLsb' 0 8 = opcHi then
            .headerinfoS234 pr (p.extractLsb' 8 16) (p.extractLsb' 24 24) (p.extractLsb' 48 8) (p.extractLsb' 56 8) ts
          else .hiNaOpcodeS234 pr p ts
        else if src = srcHi3 then
          if p.extractLsb' 0 8 = opcHi then
            .headerinfoS242 pr (p.extractLsb' 8 16) (p.extractLsb' 24 24) (p.extractLsb' 48 8) (p.extractLsb' 56 8) ts
          else .hiNaOpcodeS242 pr p ts
        else .hiNaSource pr src p ts
      else .ignore pr pgn src p ts := by
  have hg : matchGf = fwWord 0 pgnGf srcGf (opcGf.setWidth 64) := rfl
  have hh (x : SourceAddr) : matchHi x = fwWord 0 pgnHi x (opcHi.setWidth 64) := rfl
  have hne : pgnHi ≠ pgnGf := by decide
  have h12 : srcHi1 ≠ srcHi2 := by decide
  have h13 : srcHi1 ≠ srcHi3 := by decide
  have h23 : srcHi2 ≠ srcHi3 := by decide
  simp only [decodeFw, hg, hh, fits_maskPgn, fits_maskPgnSource, fits_maskGf, fits_maskHi, decide_eq_true_eq,
    fwPriority_fwWord, fwPgn_fwWord, fwSource_fwWord, fwPayload_fwWord, gfFlow_eq, gfMoisture_eq,
    gfIgnored_eq, hiWidth_eq, hiIgnored_eq, hiRows_eq, hiSpacing_eq]
  by_cases hp : pgn = pgnGf
  · subst hp
    by_cases hs : src = srcGf <;> by_cases ho : p.extractLsb' 0 16 = opcGf <;> simp [hs, ho]
  · by_cases hq : pgn = pgnHi
    · subst hq
      by_cases ho : p.extractLsb' 0 8 = opcHi
      · by_cases h1 : src = srcHi1
        · simp [h1, ho, hne]
        · by_cases h2 : src = srcHi2
          · simp [h2, ho, hne, h12.symm]
          · by_cases h3 : src = srcHi3 <;> simp [h1, h2, h3, ho, hne, h13.symm, h23.symm]
      · by_cases h1 : src = srcHi1
        · simp [h1, ho, hne]
        · by_cases h2 : src = srcHi2
          · simp [h2, ho, hne, h12.symm]
          · by_cases h3 : src = srcHi3 <;> simp [h1, h2, h3, ho, hne, h13.symm, h23.symm]
    · simp [hp, hq]

/-! ### RAW40 -/

theorem rawWord_toNat (len : Length) (id : CanId) : (rawWord len id).toNat = len.toNat * 2 ^ 32 + id.toNat :=
  append_toNat len id
theorem rawId_toNat (w : BitVec 40) : (rawId w).toNat = w.toNat / 2 ^ 0 % 2 ^ 32 := slice_toNat w 0 32
theorem rawLen_toNat (w : BitVec 40) : (rawLen w).toNat = w.toNat / 2 ^ 32 % 2 ^ 8 := slice_toNat w 32 8

@[simp] theorem rawId_rawWord (len : Length) (id : CanId) : rawId (rawWord len id) = id := by
  apply BitVec.eq_of_toNat_eq
  have := canId_lt id; have := length_lt len
  rw [rawId_toNat, rawWord_toNat]
  omega

@[simp] theorem rawLen_rawWord (len : Length) (id : CanId) : rawLen (rawWord len id) = len := by
  apply BitVec.eq_of_toNat_eq
  have := canId_lt id; have := length_lt len
  rw [rawLen_toNat, rawWord_toNat]
  omega

/-- A raw word is its fields put together. -/
theorem rawWord_fields (w : BitVec 40) : rawWord (rawLen w) (rawId w) = w := by
  apply BitVec.eq_of_toNat_eq
  have := w.isLt
  rw [rawWord_toNat, rawLen_toNat, rawId_toNat]
  omega

theorem rawWord_bit_id (len : Length) (id : CanId) (i : Nat) (h : i < 32) :
    (rawWord len id).getLsbD i = id.getLsbD i :=
  BitVec.getLsbD_append.trans (if_pos h)

theorem rawWord_bit_len (len : Length) (id : CanId) (i : Nat) :
    (rawWord len id).getLsbD (32 + i) = len.getLsbD i := by
  refine BitVec.getLsbD_append.trans ((if_neg (Nat.not_lt.mpr (Nat.le_add_right ..))).trans ?_)
  exact congrArg len.getLsbD (Nat.add_sub_cancel_left ..)

/-- A one-bit row of stage 1. -/
theorem fits_bit (w : BitVec 40) (i : Nat) (h : i < 40) :
    fits w (BitVec.twoPow 40 i) (BitVec.twoPow 40 i) = w.getLsbD i := by
  rw [fits, BitVec.and_twoPow]
  cases hb : w.getLsbD i
  · have : (0#40 : BitVec 40) ≠ BitVec.twoPow 40 i := by
      intro he
      have := congrArg (fun x => BitVec.getLsbD x i) he
      simp [h] at this
    simpa using this
  · simp

/-- A two-bit row of stage 1. -/
theorem fits_two_bits (w : BitVec 40) (i j : Nat) (hi : i < 40) (hj : j < 40) :
    fits w (BitVec.twoPow 40 i ||| BitVec.twoPow 40 j) (BitVec.twoPow 40 i ||| BitVec.twoPow 40 j) =
      (w.getLsbD i && w.getLsbD j) := by
  have key : w &&& (BitVec.twoPow 40 i ||| BitVec.twoPow 40 j) = BitVec.twoPow 40 i ||| BitVec.twoPow 40 j ↔
      w.getLsbD i = true ∧ w.getLsbD j = true := by
    constructor
    · intro he
      have h1 := congrArg (fun x => BitVec.getLsbD x i) he
      have h2 := congrArg (fun x => BitVec.getLsbD x j) he
      simp [hi, hj] at h1 h2
      exact ⟨h1, h2⟩
    · rintro ⟨h1, h2⟩
      apply BitVec.eq_of_getLsbD_eq
      intro k hk
      simp only [BitVec.getLsbD_and, BitVec.getLsbD_or, BitVec.getLsbD_twoPow]
      by_cases hki : i = k
      · subst hki; simp [h1, hk]
      · by_cases hkj : j = k
        · subst hkj; simp [h2, hk]
        · simp [hki, hkj]
  rw [fits]
  cases h1 : w.getLsbD i <;> cases h2 : w.getLsbD j <;> simp_all

/-! The rows of stage 1, each as the bits it tests. -/

theorem fits_rowIdB31 (w : BitVec 40) : fits w rowIdB31 rowIdB31 = w.getLsbD 31 := fits_bit w 31 (by decide)
theorem fits_rowIdB30 (w : BitVec 40) : fits w rowIdB30 rowIdB30 = w.getLsbD 30 := fits_bit w 30 (by decide)
theorem fits_rowIdB29 (w : BitVec 40) : fits w rowIdB29 rowIdB29 = w.getLsbD 29 := fits_bit w 29 (by decide)
theorem fits_rowLenB7 (w : BitVec 40) : fits w rowLenB7 rowLenB7 = w.getLsbD (32 + 7) := fits_bit w (32 + 7) (by decide)
theorem fits_rowLenB6 (w : BitVec 40) : fits w rowLenB6 rowLenB6 = w.getLsbD (32 + 6) := fits_bit w (32 + 6) (by decide)
theorem fits_rowLenB5 (w : BitVec 40) : fits w rowLenB5 rowLenB5 = w.getLsbD (32 + 5) := fits_bit w (32 + 5) (by decide)
theorem fits_rowLenB4 (w : BitVec 40) : fits w rowLenB4 rowLenB4 = w.getLsbD (32 + 4) := fits_bit w (32 + 4) (by decide)
theorem fits_rowLenB3b2 (w : BitVec 40) :
    fits w rowLenB3b2 rowLenB3b2 = (w.getLsbD (32 + 3) && w.getLsbD (32 + 2)) := by
  rw [← fits_two_bits w (32 + 3) (32 + 2) (by decide) (by decide),
    show BitVec.twoPow 40 (32 + 3) ||| BitVec.twoPow 40 (32 + 2) = rowLenB3b2 from rfl]
theorem fits_rowLenB3b1 (w : BitVec 40) :
    fits w rowLenB3b1 rowLenB3b1 = (w.getLsbD (32 + 3) && w.getLsbD (32 + 1)) := by
  rw [← fits_two_bits w (32 + 3) (32 + 1) (by decide) (by decide),
    show BitVec.twoPow 40 (32 + 3) ||| BitVec.twoPow 40 (32 + 1) = rowLenB3b1 from rfl]
theorem fits_rowLenB3b0 (w : BitVec 40) :
    fits w rowLenB3b0 rowLenB3b0 = (w.getLsbD (32 + 3) && w.getLsbD (32 + 0)) := by
  rw [← fits_two_bits w (32 + 3) (32 + 0) (by decide) (by decide),
    show BitVec.twoPow 40 (32 + 3) ||| BitVec.twoPow 40 (32 + 0) = rowLenB3b0 from rfl]

/-! The same of the identifier or the length alone, as WellFormed asks it. -/

@[simp] theorem idFits_rowIdB31 (id : CanId) : idFits rowIdB31 id = id.getLsbD 31 :=
  (fits_rowIdB31 _).trans (rawWord_bit_id 0 id 31 (by decide))
@[simp] theorem idFits_rowIdB30 (id : CanId) : idFits rowIdB30 id = id.getLsbD 30 :=
  (fits_rowIdB30 _).trans (rawWord_bit_id 0 id 30 (by decide))
@[simp] theorem idFits_rowIdB29 (id : CanId) : idFits rowIdB29 id = id.getLsbD 29 :=
  (fits_rowIdB29 _).trans (rawWord_bit_id 0 id 29 (by decide))
@[simp] theorem lenFits_rowLenB7 (len : Length) : lenFits rowLenB7 len = len.getLsbD 7 := by
  rw [lenFits, fits_rowLenB7, rawWord_bit_len]
@[simp] theorem lenFits_rowLenB6 (len : Length) : lenFits rowLenB6 len = len.getLsbD 6 := by
  rw [lenFits, fits_rowLenB6, rawWord_bit_len]
@[simp] theorem lenFits_rowLenB5 (len : Length) : lenFits rowLenB5 len = len.getLsbD 5 := by
  rw [lenFits, fits_rowLenB5, rawWord_bit_len]
@[simp] theorem lenFits_rowLenB4 (len : Length) : lenFits rowLenB4 len = len.getLsbD 4 := by
  rw [lenFits, fits_rowLenB4, rawWord_bit_len]
@[simp] theorem lenFits_rowLenB3b2 (len : Length) : lenFits rowLenB3b2 len = (len.getLsbD 3 && len.getLsbD 2) := by
  rw [lenFits, fits_rowLenB3b2, rawWord_bit_len, rawWord_bit_len]
@[simp] theorem lenFits_rowLenB3b1 (len : Length) : lenFits rowLenB3b1 len = (len.getLsbD 3 && len.getLsbD 1) := by
  rw [lenFits, fits_rowLenB3b1, rawWord_bit_len, rawWord_bit_len]
@[simp] theorem lenFits_rowLenB3b0 (len : Length) : lenFits rowLenB3b0 len = (len.getLsbD 3 && len.getLsbD 0) := by
  rw [lenFits, fits_rowLenB3b0, rawWord_bit_len, rawWord_bit_len]

/-- Stage 1 as tests of the bits of the identifier and the length, in the table's order. -/
theorem decodeRaw_rawWord (len : Length) (id : CanId) (fb : FrameBuffer) (ts : Timestamp) :
    decodeRaw (rawWord len id) fb ts =
      if id.getLsbD 31 then .invalidIdB31 id len
      else if id.getLsbD 30 then .invalidIdB30 id len
      else if id.getLsbD 29 then .invalidIdB29 id len
      else if len.getLsbD 7 then .frameTooLongB7 id len
      else if len.getLsbD 6 then .frameTooLongB6 id len
      else if len.getLsbD 5 then .frameTooLongB5 id len
      else if len.getLsbD 4 then .frameTooLongB4 id len
      else if len.getLsbD 3 && len.getLsbD 2 then .frameTooLongB3b2 id len
      else if len.getLsbD 3 && len.getLsbD 1 then .frameTooLongB3b1 id len
      else if len.getLsbD 3 && len.getLsbD 0 then .frameTooLongB3b0 id len
      else .valid { id := id, len := len, bytes := fb, ts := ts } := by
  simp only [decodeRaw, fits_rowIdB31, fits_rowIdB30, fits_rowIdB29, fits_rowLenB7, fits_rowLenB6, fits_rowLenB5, fits_rowLenB4,
    fits_rowLenB3b2, fits_rowLenB3b1, fits_rowLenB3b0, rawWord_bit_len, rawWord_bit_id _ _ _ (show 31 < 32 by decide),
    rawWord_bit_id _ _ _ (show 30 < 32 by decide), rawWord_bit_id _ _ _ (show 29 < 32 by decide), rawId_rawWord, rawLen_rawWord]

/-! ### The payloads the encoder builds -/

theorem gfPayload_slices (fl mo ig : BitVec 16) :
    (gfPayload fl mo ig).extractLsb' 0 16 = opcGf ∧ (gfPayload fl mo ig).extractLsb' 16 16 = fl ∧
      (gfPayload fl mo ig).extractLsb' 32 16 = mo ∧ (gfPayload fl mo ig).extractLsb' 48 16 = ig := by
  have := fl.isLt; have := mo.isLt; have := ig.isLt; have := opcGf_toNat
  refine ⟨?_, ?_, ?_, ?_⟩ <;> apply BitVec.eq_of_toNat_eq <;>
    rw [slice_toNat, gfPayload_toNat] <;> omega

theorem hiPayload_slices (wd : BitVec 16) (ig : BitVec 24) (ro sp : BitVec 8) :
    (hiPayload wd ig ro sp).extractLsb' 0 8 = opcHi ∧ (hiPayload wd ig ro sp).extractLsb' 8 16 = wd ∧
      (hiPayload wd ig ro sp).extractLsb' 24 24 = ig ∧ (hiPayload wd ig ro sp).extractLsb' 48 8 = ro ∧
      (hiPayload wd ig ro sp).extractLsb' 56 8 = sp := by
  have := wd.isLt; have := ig.isLt; have := ro.isLt; have := sp.isLt; have := opcHi_toNat
  refine ⟨?_, ?_, ?_, ?_, ?_⟩ <;> apply BitVec.eq_of_toNat_eq <;>
    rw [slice_toNat, hiPayload_toNat] <;> omega

/-- A payload with the grain-flow opcode is the one its fields build. -/
theorem gfPayload_of_slices (p : Payload) (h : p.extractLsb' 0 16 = opcGf) :
    gfPayload (p.extractLsb' 16 16) (p.extractLsb' 32 16) (p.extractLsb' 48 16) = p := by
  apply BitVec.eq_of_toNat_eq
  have := payload_lt p
  have h' := congrArg BitVec.toNat h
  rw [slice_toNat, opcGf_toNat] at h'
  rw [gfPayload_toNat]
  simp only [slice_toNat]
  omega

/-- A payload with the header-info opcode is the one its fields build. -/
theorem hiPayload_of_slices (p : Payload) (h : p.extractLsb' 0 8 = opcHi) :
    hiPayload (p.extractLsb' 8 16) (p.extractLsb' 24 24) (p.extractLsb' 48 8) (p.extractLsb' 56 8) = p := by
  apply BitVec.eq_of_toNat_eq
  have := payload_lt p
  have h' := congrArg BitVec.toNat h
  rw [slice_toNat, opcHi_toNat] at h'
  rw [hiPayload_toNat]
  simp only [slice_toNat]
  omega

/-- The keys and the sources of the table differ, so its rows exclude each other. -/
theorem table_constants_differ :
    pgnHi ≠ pgnGf ∧ srcHi2 ≠ srcHi1 ∧ srcHi3 ≠ srcHi1 ∧ srcHi3 ≠ srcHi2 := by decide

/-! ### Validity in bits -/

/-- The identifier is legal when its top three bits are clear (30_encoding.md R78). -/
theorem idIllegal_bits (id : CanId) : idIllegal id = (id.getLsbD 31 || id.getLsbD 30 || id.getLsbD 29) := by
  have key : ∀ x : BitVec 3, decide (x ≠ 0) = (x.getLsbD 2 || x.getLsbD 1 || x.getLsbD 0) := by decide
  rw [idIllegal_eq, key]
  simp

/-- The length is illegal when one of its top four bits is set, or bit 3 with any below it (30_encoding.md R78). -/
theorem lenIllegal_bits (len : Length) : lenIllegal len =
    (len.getLsbD 7 || len.getLsbD 6 || len.getLsbD 5 || len.getLsbD 4 ||
      (len.getLsbD 3 && (len.getLsbD 2 || len.getLsbD 1 || len.getLsbD 0))) := by
  revert len; decide

/-! ### Well-formedness of the rows that test an opcode -/

@[simp] theorem wf_gfNaOpcode (pr : Priority) (p : Payload) (ts : Timestamp) :
    Instr.wf (.gfNaOpcode pr p ts) = true ↔ p.extractLsb' 0 16 ≠ opcGf := bne_iff_ne
@[simp] theorem wf_hiNaOpcodeS211 (pr : Priority) (p : Payload) (ts : Timestamp) :
    Instr.wf (.hiNaOpcodeS211 pr p ts) = true ↔ p.extractLsb' 0 8 ≠ opcHi := bne_iff_ne
@[simp] theorem wf_hiNaOpcodeS234 (pr : Priority) (p : Payload) (ts : Timestamp) :
    Instr.wf (.hiNaOpcodeS234 pr p ts) = true ↔ p.extractLsb' 0 8 ≠ opcHi := bne_iff_ne
@[simp] theorem wf_hiNaOpcodeS242 (pr : Priority) (p : Payload) (ts : Timestamp) :
    Instr.wf (.hiNaOpcodeS242 pr p ts) = true ↔ p.extractLsb' 0 8 ≠ opcHi := bne_iff_ne

end Sys2Proof.Laws
end

