-- ==== Sys2Proof/Laws/State.lean ====
section
/-! SUPPORT. One lemma per field per update of the state, so that no proof unfolds an update. -/

namespace Sys2Proof.Laws

open Sys2Proof.Machine

variable (s : State) (k : ResKind) (h : BitVec 1) (m : Option CanMessage) (u : Update) (msg : CanMessage) (a b : Bool)

@[simp] theorem report_acc : (report k h m s).acc = s.acc := rfl
@[simp] theorem report_status : (report k h m s).status = s.status := rfl
@[simp] theorem report_pending : (report k h m s).pending = s.pending := rfl
@[simp] theorem report_out : (report k h m s).out = .transaction ⟨k, h, 0⟩ m := rfl

@[simp] theorem reportEmpty_acc : (reportEmpty s).acc = s.acc := rfl
@[simp] theorem reportEmpty_status : (reportEmpty s).status = s.status := rfl
@[simp] theorem reportEmpty_pending : (reportEmpty s).pending = s.pending := rfl
@[simp] theorem reportEmpty_out : (reportEmpty s).out = .transaction .empty none := rfl

@[simp] theorem raiseViolation_acc : (raiseViolation a b s).acc = s.acc := rfl
@[simp] theorem raiseViolation_status : (raiseViolation a b s).status = stickyStatus s.status a b := rfl
@[simp] theorem raiseViolation_pending : (raiseViolation a b s).pending = s.pending := rfl
@[simp] theorem raiseViolation_out : (raiseViolation a b s).out =
    .transaction ⟨if a then .errInvalidIdentifier else .errFrameTooLong, 0, 0⟩ none := rfl

@[simp] theorem mergeUpdate_acc : (mergeUpdate h u msg s).acc = apply s.acc u := rfl
@[simp] theorem mergeUpdate_status : (mergeUpdate h u msg s).status = s.status := rfl
@[simp] theorem mergeUpdate_pending : (mergeUpdate h u msg s).pending = s.pending := rfl
@[simp] theorem mergeUpdate_out : (mergeUpdate h u msg s).out = .transaction ⟨.updated, h, u.mask⟩ (some msg) := rfl

@[simp] theorem readSnapshot_acc : (readSnapshot s).acc = s.acc := rfl
@[simp] theorem readSnapshot_status : (readSnapshot s).status = s.status := rfl
@[simp] theorem readSnapshot_pending : (readSnapshot s).pending = s.pending := rfl
@[simp] theorem readSnapshot_out : (readSnapshot s).out = .snapshot s.acc s.status := rfl

@[simp] theorem advance_acc : (advance s).acc = s.acc := rfl
@[simp] theorem advance_status : (advance s).status = s.status := rfl
@[simp] theorem advance_pending : (advance s).pending = s.pending.tail := rfl
@[simp] theorem advance_out : (advance s).out = s.out := rfl

@[simp] theorem nextInput_issueFirst (x : Input) : nextInput (issueFirst x s) = x := rfl
@[simp] theorem advance_issueFirst (x : Input) : advance (issueFirst x s) = s := rfl

@[simp] theorem snapshot_eq (d : HarvestData) : snapshot d = d := rfl

/-- A report leaves the queue it was given: reporting commutes with a change of the queue. -/
theorem report_with_pending (q : List Input) :
    report k h m { s with pending := q } = { report k h m s with pending := q } := rfl

end Sys2Proof.Laws
end

