-- ==== Sys2Proof/Laws/Ops.lean ====
section
/-! SUPPORT. One lemma per shared operation, saying all it can do. -/

namespace Sys2Proof.Laws

open Sys2Proof.Machine Sys2Proof.Config

/-! ### Flags -/

@[simp] theorem errId_stickyStatus (st : BitVec 2) (a b : Bool) : errId (stickyStatus st a b) = (errId st || a) := by
  revert st a b; decide

@[simp] theorem errLen_stickyStatus (st : BitVec 2) (a b : Bool) : errLen (stickyStatus st a b) = (errLen st || b) := by
  revert st a b; decide

@[simp] theorem stickyStatus_none (st : BitVec 2) : stickyStatus st false false = st := by
  revert st; decide

@[simp] theorem stickyStatus_twice (st : BitVec 2) (a b : Bool) :
    stickyStatus (stickyStatus st a b) a b = stickyStatus st a b := by
  revert st a b; decide

/-! ### Updates -/

@[simp] theorem apply_none (d : HarvestData) : apply d Update.none = d := rfl

theorem apply_gfUpdate (d : HarvestData) (fl mo : BitVec 16) :
    apply d (gfUpdate fl mo) = { d with grainFlow := fl, grainMoisture := mo } := by
  simp [apply, gfUpdate, Update.none]

theorem apply_hiUpdate (d : HarvestData) (wd : BitVec 16) (ro sp : BitVec 8) :
    apply d (hiUpdate wd ro sp) = { d with headerWidth := wd, headerRows := ro, rowSpacing := sp } := by
  simp [apply, hiUpdate, Update.none]

@[simp] theorem mask_gfUpdate (fl mo : BitVec 16) : (gfUpdate fl mo).mask = 0b00011 := by
  simp only [Update.mask, gfUpdate, Update.none, Option.isSome]; decide

@[simp] theorem mask_hiUpdate (wd : BitVec 16) (ro sp : BitVec 8) : (hiUpdate wd ro sp).mask = 0b11100 := by
  simp only [Update.mask, hiUpdate, Update.none, Option.isSome]; decide

/-- The bits of a mask, index by index (10_state.md R34). -/
theorem mask_bits (e d c b a : Bool) :
    let m := BitVec.ofBool e ++ BitVec.ofBool d ++ BitVec.ofBool c ++ BitVec.ofBool b ++ BitVec.ofBool a
    m.getLsbD 0 = a ∧ m.getLsbD 1 = b ∧ m.getLsbD 2 = c ∧ m.getLsbD 3 = d ∧ m.getLsbD 4 = e := by
  revert e d c b a; decide

@[simp] theorem mask_bit0 (u : Update) : u.mask.getLsbD 0 = u.grainFlow.isSome := (mask_bits ..).1
@[simp] theorem mask_bit1 (u : Update) : u.mask.getLsbD 1 = u.grainMoisture.isSome := (mask_bits ..).2.1
@[simp] theorem mask_bit2 (u : Update) : u.mask.getLsbD 2 = u.headerWidth.isSome := (mask_bits ..).2.2.1
@[simp] theorem mask_bit3 (u : Update) : u.mask.getLsbD 3 = u.headerRows.isSome := (mask_bits ..).2.2.2.1
@[simp] theorem mask_bit4 (u : Update) : u.mask.getLsbD 4 = u.rowSpacing.isSome := (mask_bits ..).2.2.2.2

/-! ### Dispatch -/

/-- The table has `N_HANDLERS` entries (00_scope.md R4). -/
theorem table_length : table.handlers.length = nHandlers := rfl

/-- Entry 0 on a message (43_signal_decoders.md R131), for any grain-flow opcode. -/
theorem signalDecode_grainFlow (opc : BitVec 16) (msg : CanMessage) :
    signalDecode 0 (grainFlowHandler opc) msg =
      if msg.source = srcGf then
        if msg.payload.extractLsb' 0 16 = opc then
          .update 0 (gfUpdate (msg.payload.extractLsb' 16 16) (msg.payload.extractLsb' 32 16))
        else .naOpcode 0
      else .naSource 0 := by
  have ho : field msg.payload 0 16 = opc.setWidth 64 ↔ msg.payload.extractLsb' 0 16 = opc := by
    rw [field_eq_slice _ _ _ (by decide)]
    constructor
    · intro h
      simpa [BitVec.setWidth_setWidth_of_le] using congrArg (BitVec.setWidth 16) h
    · intro h; rw [h]
  have hx : extractFields msg.payload (grainFlowHandler opc).fields =
      gfUpdate (msg.payload.extractLsb' 16 16) (msg.payload.extractLsb' 32 16) := by
    rw [← field_setWidth _ 16 16 (by decide), ← field_setWidth _ 32 16 (by decide)]; rfl
  rw [signalDecode, hx]
  simp only [grainFlowHandler, List.mem_singleton, ne_eq, ho, ite_not]

/-- Entry 1 on a message (43_signal_decoders.md R137). -/
theorem signalDecode_headerInfo (msg : CanMessage) :
    signalDecode 1 headerInfoHandler msg =
      if msg.source = srcHi1 ∨ msg.source = srcHi2 ∨ msg.source = srcHi3 then
        if msg.payload.extractLsb' 0 8 = opcHi then
          .update 1 (hiUpdate (msg.payload.extractLsb' 8 16) (msg.payload.extractLsb' 48 8) (msg.payload.extractLsb' 56 8))
        else .naOpcode 1
      else .naSource 1 := by
  have ho : field msg.payload 0 8 = opcHi.setWidth 64 ↔ msg.payload.extractLsb' 0 8 = opcHi := by
    rw [field_eq_slice _ _ _ (by decide)]
    constructor
    · intro h
      simpa [BitVec.setWidth_setWidth_of_le] using congrArg (BitVec.setWidth 8) h
    · intro h; rw [h]
  have hx : extractFields msg.payload headerInfoHandler.fields =
      hiUpdate (msg.payload.extractLsb' 8 16) (msg.payload.extractLsb' 48 8) (msg.payload.extractLsb' 56 8) := by
    rw [← field_setWidth _ 8 16 (by decide), ← field_setWidth _ 48 8 (by decide), ← field_setWidth _ 56 8 (by decide)]; rfl
  rw [signalDecode, hx]
  simp only [headerInfoHandler, List.mem_cons, List.not_mem_nil, or_false, ne_eq, ho, ite_not]

/-- DISPATCH over this hardware's table, for any grain-flow opcode. -/
theorem dispatch_tableFor (opc : BitVec 16) (msg : CanMessage) :
    dispatch (tableFor opc) msg =
      if pgnGf.setWidth 32 = msg.pgn then signalDecode 0 (grainFlowHandler opc) msg
      else if pgnHi.setWidth 32 = msg.pgn then signalDecode 1 headerInfoHandler msg
      else .naPgn := by
  by_cases h0 : pgnGf.setWidth 32 = msg.pgn
  · simp [dispatch, lookup, tableFor, lookupFrom, grainFlowHandler, h0]
  · by_cases h1 : pgnHi.setWidth 32 = msg.pgn <;>
      simp [dispatch, lookup, tableFor, lookupFrom, grainFlowHandler, headerInfoHandler, h0, h1]

/-! ### A whole frame -/

/-- A FRAME transaction: the violations by their conditions, else the message is dispatched (45_block_operations.md R161). -/
theorem processFrame_eq (t : DispatchTable) (f : Frame) (s : State) :
    processFrame t f s =
      if idIllegal f.id then raiseViolation true (lenIllegal f.len) s
      else if lenIllegal f.len then raiseViolation false true s
      else deliver (dispatch t (messageOf f)) (messageOf f) s := by
  cases hi : idIllegal f.id <;> cases hl : lenIllegal f.len <;>
    simp [processFrame, iddec, pack, hi, hl, messageOf]

/-- Delivering a verdict leaves the flags and the queue alone. -/
@[simp] theorem deliver_status (v : Verdict) (msg : CanMessage) (s : State) : (deliver v msg s).status = s.status := by
  cases v <;> rfl

@[simp] theorem deliver_pending (v : Verdict) (msg : CanMessage) (s : State) : (deliver v msg s).pending = s.pending := by
  cases v <;> rfl

end Sys2Proof.Laws
end

