-- ==== Sys2Proof/Laws/PerInstr.lean ====
section
/-! SUPPORT. The per-instruction family `Stage`: the stage a row belongs to is the stage its word is encoded in, and a word of
stage 2 carries the PGN its row names (30_encoding.md R77 to R79). -/

namespace Sys2Proof.Laws.Stage

open Sys2Proof.Config Sys2Proof.Machine

/-- A word of stage 0. -/
def ctl : Coded → Prop
  | .ctl _ _ => True
  | _ => False

/-- A word of stage 1 with this identifier and length. -/
def raw (id : CanId) (len : Length) : Coded → Prop
  | .raw w _ _ => rawId w = id ∧ rawLen w = len
  | _ => False

/-- A word of stage 2 with this priority, PGN and source. -/
def fw (priority : Priority) (pgn : Pgn) (source : SourceAddr) : Coded → Prop
  | .fw w _ => fwPriority w = priority ∧ fwPgn w = pgn ∧ fwSource w = source
  | _ => False

/-- The word of each row is one of its stage and carries the row's fields. -/
def Statement (i : Instr) : Prop :=
  match i with
  | .reset => ctl (encode i)
  | .idle => ctl (encode i)
  | .frame _ => ctl (encode i)
  | .invalidIdB31 id len => raw id len (encode i)
  | .invalidIdB30 id len => raw id len (encode i)
  | .invalidIdB29 id len => raw id len (encode i)
  | .frameTooLongB7 id len => raw id len (encode i)
  | .frameTooLongB6 id len => raw id len (encode i)
  | .frameTooLongB5 id len => raw id len (encode i)
  | .frameTooLongB4 id len => raw id len (encode i)
  | .frameTooLongB3b2 id len => raw id len (encode i)
  | .frameTooLongB3b1 id len => raw id len (encode i)
  | .frameTooLongB3b0 id len => raw id len (encode i)
  | .valid f => raw f.id f.len (encode i)
  | .grainflow pr _ _ _ _ => fw pr 61184 211 (encode i)
  | .gfNaOpcode pr _ _ => fw pr 61184 211 (encode i)
  | .gfNaSource pr src _ _ => fw pr 61184 src (encode i)
  | .headerinfoS211 pr _ _ _ _ _ => fw pr 65535 211 (encode i)
  | .headerinfoS234 pr _ _ _ _ _ => fw pr 65535 234 (encode i)
  | .headerinfoS242 pr _ _ _ _ _ => fw pr 65535 242 (encode i)
  | .hiNaOpcodeS211 pr _ _ => fw pr 65535 211 (encode i)
  | .hiNaOpcodeS234 pr _ _ => fw pr 65535 234 (encode i)
  | .hiNaOpcodeS242 pr _ _ => fw pr 65535 242 (encode i)
  | .hiNaSource pr src _ _ => fw pr 65535 src (encode i)
  | .ignore pr pgn src _ _ => fw pr pgn src (encode i)

theorem reset : Statement (.reset) := trivial
theorem idle : Statement (.idle) := trivial
theorem frame (f : Frame) : Statement (.frame f) := trivial
theorem invalidIdB31 (id : CanId) (len : Length) : Statement (.invalidIdB31 id len) := by
  simp [Statement, encode, raw]
theorem invalidIdB30 (id : CanId) (len : Length) : Statement (.invalidIdB30 id len) := by
  simp [Statement, encode, raw]
theorem invalidIdB29 (id : CanId) (len : Length) : Statement (.invalidIdB29 id len) := by
  simp [Statement, encode, raw]
theorem frameTooLongB7 (id : CanId) (len : Length) : Statement (.frameTooLongB7 id len) := by
  simp [Statement, encode, raw]
theorem frameTooLongB6 (id : CanId) (len : Length) : Statement (.frameTooLongB6 id len) := by
  simp [Statement, encode, raw]
theorem frameTooLongB5 (id : CanId) (len : Length) : Statement (.frameTooLongB5 id len) := by
  simp [Statement, encode, raw]
theorem frameTooLongB4 (id : CanId) (len : Length) : Statement (.frameTooLongB4 id len) := by
  simp [Statement, encode, raw]
theorem frameTooLongB3b2 (id : CanId) (len : Length) : Statement (.frameTooLongB3b2 id len) := by
  simp [Statement, encode, raw]
theorem frameTooLongB3b1 (id : CanId) (len : Length) : Statement (.frameTooLongB3b1 id len) := by
  simp [Statement, encode, raw]
theorem frameTooLongB3b0 (id : CanId) (len : Length) : Statement (.frameTooLongB3b0 id len) := by
  simp [Statement, encode, raw]
theorem valid (f : Frame) : Statement (.valid f) := by
  simp [Statement, encode, raw]
theorem grainflow (pr : Priority) (fl mo ig : BitVec 16) (ts : Timestamp) : Statement (.grainflow pr fl mo ig ts) := by
  simp [Statement, encode, fw, pgnGf, srcGf]
theorem gfNaOpcode (pr : Priority) (p : Payload) (ts : Timestamp) : Statement (.gfNaOpcode pr p ts) := by
  simp [Statement, encode, fw, pgnGf, srcGf]
theorem gfNaSource (pr : Priority) (src : SourceAddr) (p : Payload) (ts : Timestamp) : Statement (.gfNaSource pr src p ts) := by
  simp [Statement, encode, fw, pgnGf]
theorem headerinfoS211 (pr : Priority) (wd : BitVec 16) (ig : BitVec 24) (ro sp : BitVec 8) (ts : Timestamp) :
    Statement (.headerinfoS211 pr wd ig ro sp ts) := by
  simp [Statement, encode, fw, pgnHi, srcHi1]
theorem headerinfoS234 (pr : Priority) (wd : BitVec 16) (ig : BitVec 24) (ro sp : BitVec 8) (ts : Timestamp) :
    Statement (.headerinfoS234 pr wd ig ro sp ts) := by
  simp [Statement, encode, fw, pgnHi, srcHi2]
theorem headerinfoS242 (pr : Priority) (wd : BitVec 16) (ig : BitVec 24) (ro sp : BitVec 8) (ts : Timestamp) :
    Statement (.headerinfoS242 pr wd ig ro sp ts) := by
  simp [Statement, encode, fw, pgnHi, srcHi3]
theorem hiNaOpcodeS211 (pr : Priority) (p : Payload) (ts : Timestamp) : Statement (.hiNaOpcodeS211 pr p ts) := by
  simp [Statement, encode, fw, pgnHi, srcHi1]
theorem hiNaOpcodeS234 (pr : Priority) (p : Payload) (ts : Timestamp) : Statement (.hiNaOpcodeS234 pr p ts) := by
  simp [Statement, encode, fw, pgnHi, srcHi2]
theorem hiNaOpcodeS242 (pr : Priority) (p : Payload) (ts : Timestamp) : Statement (.hiNaOpcodeS242 pr p ts) := by
  simp [Statement, encode, fw, pgnHi, srcHi3]
theorem hiNaSource (pr : Priority) (src : SourceAddr) (p : Payload) (ts : Timestamp) : Statement (.hiNaSource pr src p ts) := by
  simp [Statement, encode, fw, pgnHi]
theorem ignore (pr : Priority) (pgn : Pgn) (src : SourceAddr) (p : Payload) (ts : Timestamp) :
    Statement (.ignore pr pgn src p ts) := by
  simp [Statement, encode, fw]

end Sys2Proof.Laws.Stage
end

