-- ==== Sys2Proof/Laws/Step.lean ====
section
/-! SUPPORT. All a step can do, said once, and how a run takes its first step. -/

namespace Sys2Proof.Laws

open Sys2Proof.Machine Sys2Proof.Config

/-- A step resets, idles, takes a frame or samples the registers; it does nothing else. -/
theorem step_cases (s : State) :
    (∃ v f, nextInput s = .cycle ⟨true, v, f⟩ ∧
        step s = .next (reportEmpty { advance s with acc := .zero, status := 0b00 })) ∨
      (∃ f, nextInput s = .cycle ⟨false, false, f⟩ ∧ step s = .next (reportEmpty (advance s))) ∨
      (∃ f, nextInput s = .cycle ⟨false, true, f⟩ ∧ step s = .next (processFrame table f (advance s))) ∨
      (nextInput s = .snap ∧ step s = .next (readSnapshot (advance s))) := by
  cases h : nextInput s with
  | snap => exact .inr (.inr (.inr ⟨rfl, by rw [step, h]⟩))
  | cycle p =>
    obtain ⟨r, v, f⟩ := p
    cases r
    · cases v
      · exact .inr (.inl ⟨f, rfl, by simp only [step, h, decodePins_eq]; rfl⟩)
      · exact .inr (.inr (.inl ⟨f, rfl, by simp only [step, h, decodePins_eq]; rfl⟩))
    · exact .inl ⟨v, f, rfl, by simp only [step, h, decodePins_eq]; rfl⟩

/-- A frame leaves the queue alone. -/
@[simp] theorem processFrame_pending (t : DispatchTable) (f : Frame) (s : State) :
    (processFrame t f s).pending = s.pending := by
  rw [processFrame_eq]
  split
  · rfl
  · split
    · rfl
    · simp

/-- A run whose first step answers a next state goes on from there. -/
theorem run_of_step (k : Nat) {s t : State} (h : step s = .next t) :
    Sys2Proof.core.run (k + 1) s = Sys2Proof.core.run k t := by
  have h' : Sys2Proof.core.step s = .next t := h
  simp only [Host.Core.run]
  rw [h']

end Sys2Proof.Laws
end

