-- ==== Sys2Proof/Tests/Slice0.lean ====
section
/-! SUPPORT. The model's own tests. Every expected value is read off spec/95_test_vectors.md or off the rows of
30_encoding.md R77 to R79, named beside each test; none is the model's answer. -/

namespace Sys2Proof.Tests

open Sys2Proof Sys2Proof.Machine Sys2Proof.Safety Sys2Proof.Config

/-! ### Well-formedness: every check refuses an ill-formed term -/

theorem test_wf_control : Instr.wf .reset = true ∧ Instr.wf .idle = true ∧ Instr.wf (.frame .zero) = true := by decide

theorem test_wf_invalidId_needs_its_bit :
    Instr.wf (.invalidIdB31 0x18EF00D3 8) = false ∧ Instr.wf (.invalidIdB30 0x18EF00D3 8) = false ∧
      Instr.wf (.invalidIdB29 0x18EF00D3 8) = false := by decide

theorem test_wf_invalidId_no_earlier_row :
    Instr.wf (.invalidIdB30 0xC0000000 8) = false ∧ Instr.wf (.invalidIdB29 0xA0000000 8) = false ∧
      Instr.wf (.invalidIdB29 0x60000000 8) = false := by decide

theorem test_wf_invalidId_accepted :
    Instr.wf (.invalidIdB31 0xFFFFFFFF 255) = true ∧ Instr.wf (.invalidIdB30 0x7FFFFFFF 0) = true ∧
      Instr.wf (.invalidIdB29 0x20000000 0) = true := by decide

theorem test_wf_frameTooLong_needs_legal_identifier :
    Instr.wf (.frameTooLongB7 0x20000000 128) = false ∧ Instr.wf (.frameTooLongB6 0x20000000 64) = false ∧
      Instr.wf (.frameTooLongB5 0x20000000 32) = false ∧ Instr.wf (.frameTooLongB4 0x20000000 16) = false ∧
      Instr.wf (.frameTooLongB3b2 0x20000000 12) = false ∧ Instr.wf (.frameTooLongB3b1 0x20000000 10) = false ∧
      Instr.wf (.frameTooLongB3b0 0x20000000 9) = false := by decide

theorem test_wf_frameTooLong_needs_its_bits :
    Instr.wf (.frameTooLongB7 0 64) = false ∧ Instr.wf (.frameTooLongB6 0 32) = false ∧
      Instr.wf (.frameTooLongB5 0 16) = false ∧ Instr.wf (.frameTooLongB4 0 8) = false ∧
      Instr.wf (.frameTooLongB3b2 0 8) = false ∧ Instr.wf (.frameTooLongB3b2 0 4) = false ∧
      Instr.wf (.frameTooLongB3b1 0 9) = false ∧ Instr.wf (.frameTooLongB3b1 0 2) = false ∧
      Instr.wf (.frameTooLongB3b0 0 8) = false ∧ Instr.wf (.frameTooLongB3b0 0 1) = false := by decide

theorem test_wf_frameTooLong_no_earlier_row :
    Instr.wf (.frameTooLongB6 0 192) = false ∧ Instr.wf (.frameTooLongB5 0 160) = false ∧
      Instr.wf (.frameTooLongB5 0 96) = false ∧ Instr.wf (.frameTooLongB4 0 144) = false ∧
      Instr.wf (.frameTooLongB4 0 80) = false ∧ Instr.wf (.frameTooLongB4 0 48) = false ∧
      Instr.wf (.frameTooLongB3b2 0 28) = false ∧ Instr.wf (.frameTooLongB3b2 0 140) = false ∧
      Instr.wf (.frameTooLongB3b2 0 76) = false ∧ Instr.wf (.frameTooLongB3b2 0 44) = false ∧
      Instr.wf (.frameTooLongB3b1 0 14) = false ∧ Instr.wf (.frameTooLongB3b1 0 26) = false ∧
      Instr.wf (.frameTooLongB3b0 0 13) = false ∧ Instr.wf (.frameTooLongB3b0 0 11) = false ∧
      Instr.wf (.frameTooLongB3b0 0 25) = false := by decide

theorem test_wf_frameTooLong_accepted :
    Instr.wf (.frameTooLongB7 0x1FFFFFFF 255) = true ∧ Instr.wf (.frameTooLongB6 0 64) = true ∧
      Instr.wf (.frameTooLongB5 0 32) = true ∧ Instr.wf (.frameTooLongB4 0 16) = true ∧
      Instr.wf (.frameTooLongB3b2 0 15) = true ∧ Instr.wf (.frameTooLongB3b1 0 11) = true ∧
      Instr.wf (.frameTooLongB3b0 0 9) = true := by decide

theorem test_wf_valid :
    Instr.wf (.valid { Frame.zero with id := 0x20000000 }) = false ∧ Instr.wf (.valid { Frame.zero with len := 9 }) = false ∧
      Instr.wf (.valid { Frame.zero with id := 0x1FFFFFFF, len := 8 }) = true := by decide

theorem test_wf_grainflow_rows :
    Instr.wf (.grainflow 7 0xFFFF 0xFFFF 0xFFFF 0) = true ∧ Instr.wf (.gfNaOpcode 6 0x000004B005DC094F 0) = false ∧
      Instr.wf (.gfNaOpcode 6 0x000004B005DC092F 0) = true ∧ Instr.wf (.gfNaSource 6 211 0 0) = false ∧
      Instr.wf (.gfNaSource 6 234 0 0) = true := by decide

theorem test_wf_headerinfo_rows :
    Instr.wf (.headerinfoS211 7 0xFFFF 0xFFFFFF 0xFF 0xFF 0) = true ∧ Instr.wf (.headerinfoS234 7 0 0 0 0 0) = true ∧
      Instr.wf (.headerinfoS242 7 0 0 0 0 0) = true ∧
      Instr.wf (.hiNaOpcodeS211 6 0x18 0) = false ∧ Instr.wf (.hiNaOpcodeS234 6 0x18 0) = false ∧
      Instr.wf (.hiNaOpcodeS242 6 0x18 0) = false ∧ Instr.wf (.hiNaOpcodeS211 6 0x19 0) = true ∧
      Instr.wf (.hiNaOpcodeS234 6 0x24 0) = true ∧ Instr.wf (.hiNaOpcodeS242 6 0 0) = true := by decide

theorem test_wf_hiNaSource :
    Instr.wf (.hiNaSource 6 211 0 0) = false ∧ Instr.wf (.hiNaSource 6 234 0 0) = false ∧
      Instr.wf (.hiNaSource 6 242 0 0) = false ∧ Instr.wf (.hiNaSource 6 212 0 0) = true := by decide

theorem test_wf_ignore :
    Instr.wf (.ignore 6 61184 211 0 0) = false ∧ Instr.wf (.ignore 6 65535 234 0 0) = false ∧
      Instr.wf (.ignore 6 1234 211 0 0) = true := by decide

/-- A handler for the table checks. -/
def oneField (key : Pgn) (start width : Nat) (dest : Dest) : Handler where
  key := key
  sources := [1]
  opcStart := 0
  opcWidth := 8
  opcValue := 1
  fields := [{ dest := dest, start := start, width := width, scale := 1, offset := 0 }]

theorem test_tableWf_refuses_a_repeated_key :
    tableWf [oneField 1 8 8 .headerRows, oneField 1 8 8 .rowSpacing] = false ∧
      tableWf [oneField 1 8 8 .headerRows, oneField 2 8 8 .rowSpacing] = true := by decide

theorem test_tableWf_refuses_a_range_outside_the_payload :
    tableWf [oneField 1 8 0 .headerRows] = false ∧ tableWf [oneField 1 57 8 .headerRows] = false ∧
      tableWf [{ oneField 1 56 8 .headerRows with opcWidth := 0 }] = false ∧
      tableWf [{ oneField 1 56 8 .headerRows with opcStart := 57 }] = false ∧
      tableWf [oneField 1 56 8 .headerRows] = true := by decide

theorem test_tableWf_refuses_a_field_wider_than_its_register :
    tableWf [oneField 1 8 9 .headerRows] = false ∧ tableWf [oneField 1 8 17 .headerWidth] = false ∧
      tableWf [oneField 1 8 16 .headerWidth] = true := by decide

theorem test_tableWf_refuses_two_fields_for_one_register :
    tableWf [{ oneField 1 8 8 .headerRows with
      fields := [⟨.headerRows, 8, 8, 1, 0⟩, ⟨.headerRows, 16, 8, 1, 0⟩] }] = false := by decide

theorem test_codedOfWord_rejects_by_name :
    codedOfWord 8 4 = .error (.bitsAboveWord 8) ∧ codedOfWord 40 (2 ^ 40) = .error (.bitsAboveWord 40) ∧
      codedOfWord 96 (2 ^ 93) = .error (.bitsAboveWord 96) ∧ codedOfWord 97 0 = .error (.noSuchWord 97) := by decide

/-! ### The named constants, each in its one place -/

/-- 00_scope.md R4, the widths. -/
theorem test_widths_are_the_tables :
    idPortW = 32 ∧ idW = 29 ∧ prioW = 3 ∧ pgnW = 18 ∧ pgnRegW = 32 ∧ srcW = 8 ∧ lenPortW = 8 ∧ nBytes = 8 ∧
      payloadW = 64 ∧ nHandlers = 2 ∧ snapW = 64 := by decide

/-- 00_scope.md R4, the values. -/
theorem test_values_are_the_tables :
    maxLen = 8#8 ∧ maxId = 0x1FFFFFFF#32 ∧ pgnGf = 0x0EF00#18 ∧ pgnHi = 0x0FFFF#18 ∧ srcGf = 0xD3#8 ∧ srcHi1 = 0xD3#8 ∧
      srcHi2 = 0xEA#8 ∧ srcHi3 = 0xF2#8 ∧ opcGf = 0x094F#16 ∧ opcHi = 0x18#8 := by decide

/-- 30_encoding.md R71, R74, R75: the fields lie side by side and fill the identifier and the payload. -/
theorem test_fields_tile_their_words :
    idSourceLo = 0 ∧ idPgnLo = idSourceLo + srcW ∧ idPriorityLo = idPgnLo + pgnW ∧ idW = idPriorityLo + prioW ∧
      gfOpcodeLo = 0 ∧ gfFlowLo = gfOpcodeLo + gfOpcodeW ∧ gfMoistureLo = gfFlowLo + gfFlowW ∧
      gfIgnoredLo = gfMoistureLo + gfMoistureW ∧ payloadW = gfIgnoredLo + gfIgnoredW ∧
      hiOpcodeLo = 0 ∧ hiWidthLo = hiOpcodeLo + hiOpcodeW ∧ hiIgnoredLo = hiWidthLo + hiWidthW ∧
      hiRowsLo = hiIgnoredLo + hiIgnoredW ∧ hiSpacingLo = hiRowsLo + hiRowsW ∧ payloadW = hiSpacingLo + hiSpacingW := by decide

/-! ### The decoder on words written out from 30_encoding.md R77 to R79 -/

/-- R77. -/
theorem test_decode_stage0 :
    decodeTableWord 8 0b10 = some .reset ∧ decodeTableWord 8 0b11 = some .reset ∧ decodeTableWord 8 0b00 = some .idle ∧
      decodeTableWord 8 0b01 = some (.frame .zero) := by decide

/-- R78, `len` in the top two hexadecimal digits and `id` in the low eight. -/
theorem test_decode_invalidId :
    decodeTableWord 40 0x0898EF00D3 = some (.invalidIdB31 0x98EF00D3 8) ∧
      decodeTableWord 40 0xFFFFFFFFFF = some (.invalidIdB31 0xFFFFFFFF 255) ∧
      decodeTableWord 40 0x0840000000 = some (.invalidIdB30 0x40000000 8) ∧
      decodeTableWord 40 0x0820000000 = some (.invalidIdB29 0x20000000 8) := by decide

/-- R78: the length rows, each by its lowest length and by one that would fit a later row too. -/
theorem test_decode_frameTooLong :
    decodeTableWord 40 0xC81804D2D3 = some (.frameTooLongB7 0x1804D2D3 200) ∧
      decodeTableWord 40 0x4018EF00D3 = some (.frameTooLongB6 0x18EF00D3 64) ∧
      decodeTableWord 40 0x2918EF00D3 = some (.frameTooLongB5 0x18EF00D3 41) ∧
      decodeTableWord 40 0x1018EF00D3 = some (.frameTooLongB4 0x18EF00D3 16) ∧
      decodeTableWord 40 0x0F18EF00D3 = some (.frameTooLongB3b2 0x18EF00D3 15) ∧
      decodeTableWord 40 0x0B18EF00D3 = some (.frameTooLongB3b1 0x18EF00D3 11) ∧
      decodeTableWord 40 0x0918EF00D3 = some (.frameTooLongB3b0 0x18EF00D3 9) := by decide

/-- R78: the last legal length and the last legal identifier. -/
theorem test_decode_valid :
    decodeTableWord 40 0x0818EF00D3 = some (.valid ⟨0x18EF00D3, 8, .zero, 0⟩) ∧
      decodeTableWord 40 0x081FFFFFFF = some (.valid ⟨0x1FFFFFFF, 8, .zero, 0⟩) := by decide

/-- R79, the words of the frames of 95_test_vectors.md P2 and P3. -/
theorem test_decode_grainflow_rows :
    decodeTableWord 96 0x18EF00D3ABCD04B005DC094F = some (.grainflow 6 1500 1200 0xABCD 0) ∧
      decodeTableWord 96 0x0CEF00D30000FFFF0001094F = some (.grainflow 3 1 65535 0 0) ∧
      decodeTableWord 96 0x18EF00D3000004B005DC092F = some (.gfNaOpcode 6 0x000004B005DC092F 0) ∧
      decodeTableWord 96 0x18EF00EA000004B005DC094F = some (.gfNaSource 6 234 0x000004B005DC094F 0) := by decide

/-- R79, the payload of S5 with its ignored bytes set, from each source. -/
theorem test_decode_headerinfo_rows :
    decodeTableWord 96 0x18FFFFD33210CCBBAA232818 = some (.headerinfoS211 6 9000 0xCCBBAA 16 50 0) ∧
      decodeTableWord 96 0x18FFFFEA4C0C000000177018 = some (.headerinfoS234 6 6000 0 12 76 0) ∧
      decodeTableWord 96 0x1CFFFFF24C0C000000177018 = some (.headerinfoS242 7 6000 0 12 76 0) := by decide

/-- R79: V4 and V6's rejected header-info frames. -/
theorem test_decode_headerinfo_rejections :
    decodeTableWord 96 0x18FFFFD3000004B005DC094F = some (.hiNaOpcodeS211 6 0x000004B005DC094F 0) ∧
      decodeTableWord 96 0x18FFFFEA4C0C000000177019 = some (.hiNaOpcodeS234 6 0x4C0C000000177019 0) ∧
      decodeTableWord 96 0x18FFFFF24C0C000000177024 = some (.hiNaOpcodeS242 6 0x4C0C000000177024 0) ∧
      decodeTableWord 96 0x18FFFFD44C0C000000177018 = some (.hiNaSource 6 212 0x4C0C000000177018 0) := by decide

/-- R79: V4's frames on a PGN that is no key; two differ from a key in a bit above the low sixteen. -/
theorem test_decode_ignore :
    decodeTableWord 96 0x1804D2D3000004B005DC094F = some (.ignore 6 1234 211 0x000004B005DC094F 0) ∧
      decodeTableWord 96 0x19EF00D3000004B005DC094F = some (.ignore 6 126720 211 0x000004B005DC094F 0) ∧
      decodeTableWord 96 0x1BFFFFD3000004B005DC094F = some (.ignore 6 262143 211 0x000004B005DC094F 0) ∧
      decodeTableWord 96 0 = some (.ignore 0 0 0 0 0) := by decide

/-- R79: the masks as the table writes them. -/
theorem test_masks_are_the_tables :
    maskGf = 0x03FFFFFF000000000000FFFF#93 ∧ maskHi = 0x03FFFFFF00000000000000FF#93 ∧
      maskPgnSource = 0x03FFFFFF0000000000000000#93 ∧ maskPgn = 0x03FFFF000000000000000000#93 := by decide

/-- R79: the matches as the table writes them. -/
theorem test_matches_are_the_tables :
    matchGf = 0x00EF00D3000000000000094F#93 ∧ fwWord 0 pgnGf srcGf 0 = 0x00EF00D30000000000000000#93 ∧
      fwWord 0 pgnGf 0 0 = 0x00EF00000000000000000000#93 ∧
      matchHi srcHi1 = 0x00FFFFD30000000000000018#93 ∧ matchHi srcHi2 = 0x00FFFFEA0000000000000018#93 ∧
      matchHi srcHi3 = 0x00FFFFF20000000000000018#93 ∧ fwWord 0 pgnHi srcHi1 0 = 0x00FFFFD30000000000000000#93 ∧
      fwWord 0 pgnHi srcHi2 0 = 0x00FFFFEA0000000000000000#93 ∧
      fwWord 0 pgnHi srcHi3 0 = 0x00FFFFF20000000000000000#93 ∧
      fwWord 0 pgnHi 0 0 = 0x00FFFF000000000000000000#93 := by decide

/-! ### Operand assembly -/

/-- V1. -/
theorem test_iddec :
    iddec 0x03FFFF00 = .ok ⟨0, 262143, 0⟩ ∧ iddec 0x1FFFFFFF = .ok ⟨7, 262143, 255⟩ ∧
      iddec 0x19EF00D3 = .ok ⟨6, 126720, 211⟩ ∧ iddec 0x1AFFFFEA = .ok ⟨6, 196607, 234⟩ ∧
      iddec 0x000007FF = .ok ⟨0, 7, 255⟩ ∧ iddec 0x20000000 = .error .invalidIdentifier ∧
      iddec 0xFFFFFFFF = .error .invalidIdentifier := by decide

/-- S1. -/
theorem test_iddec_of_the_source : iddec 0x18F00ACB = .ok ⟨6, 61450, 0xCB⟩ := by decide

/-- V2. -/
theorem test_pack :
    pack 0 ⟨0xFF, 0xFF, 0xFF, 0xFF, 0xFF, 0xFF, 0xFF, 0xFF⟩ = .ok 0 ∧
      pack 3 ⟨0x4F, 0x09, 0xDC, 0x05, 0xB0, 0x04, 0xFF, 0xFF⟩ = .ok 0x0000000000DC094F ∧
      pack 7 ⟨1, 2, 3, 4, 5, 6, 7, 8⟩ = .ok 0x0007060504030201 ∧
      pack 8 ⟨1, 2, 3, 4, 5, 6, 7, 8⟩ = .ok 0x0807060504030201 ∧
      pack 8 ⟨0, 0, 0, 0, 0, 0, 0, 0x80⟩ = .ok 0x8000000000000000 ∧
      pack 9 ⟨1, 2, 3, 4, 5, 6, 7, 8⟩ = .error .frameTooLong := by decide

/-- V3. -/
theorem test_field :
    field 0x4C0C000000177018 0 16 = 28696 ∧ field 0x4C0C000000177018 8 16 = 6000 ∧
      field 0x4C0C000000177018 56 8 = 76 ∧ field 0x4C0C000000177018 0 64 = 0x4C0C000000177018 ∧
      field 0x8000000000000000 63 1 = 1 ∧ field 0xFFFFFFFFFFFFFFFF 16 16 = 65535 := by decide

/-- V3. -/
theorem test_scale100 :
    scale100 0 = 0 ∧ scale100 1 = 1 / 100 ∧ scale100 1500 = 15 ∧ scale100 2383 = 2383 / 100 ∧
      scale100 65535 = 65535 / 100 := by
  refine ⟨?_, ?_, ?_, ?_, ?_⟩ <;> norm_num [scale100, scaleGf, show (1 : BitVec 16).toNat = 1 from rfl,
    show (1500 : BitVec 16).toNat = 1500 from rfl, show (2383 : BitVec 16).toNat = 2383 from rfl,
    show (65535 : BitVec 16).toNat = 65535 from rfl]

/-- V7. -/
theorem test_snapWord :
    snapWord ⟨1500, 1200, 6000, 12, 76⟩ = 0x4C0C177004B005DC ∧ snapWord ⟨1, 65535, 6000, 12, 76⟩ = 0x4C0C1770FFFF0001 := by
  decide

/-- V7. -/
theorem test_apply :
    apply ⟨1500, 1200, 6000, 12, 76⟩ ⟨some 220, some 0, none, none, none⟩ = ⟨220, 0, 6000, 12, 76⟩ ∧
      apply ⟨1500, 1200, 6000, 12, 76⟩ ⟨none, none, some 65535, some 255, some 255⟩ = ⟨1500, 1200, 65535, 255, 255⟩ ∧
      Update.mask ⟨some 220, some 0, none, none, none⟩ = 0b00011 ∧
      Update.mask ⟨none, none, some 1, some 2, some 3⟩ = 0b11100 := by decide

/-! ### One step on a small state -/

/-- A state with this accumulator and status. -/
def holding (acc : HarvestData) (status : BitVec 2) : State :=
  { acc := acc, status := status, pending := [], out := .transaction .empty none }

/-- The state of most vectors of part 2. -/
def seven : State := holding ⟨7, 8, 9, 10, 11⟩ 0

/-- A frame as the vectors write it. -/
def vector (id : CanId) (len : BitVec 8) (b0 b1 b2 b3 b4 b5 b6 b7 : Byte) : Frame :=
  { id := id, len := len, bytes := ⟨b0, b1, b2, b3, b4, b5, b6, b7⟩, ts := 0 }

/-- The grain-flow bytes of S3 under an identifier and a length. -/
def grain (id : CanId) (len : BitVec 8) : Frame := vector id len 0x4F 0x09 0xDC 0x05 0xB0 0x04 0x00 0x00

/-- The header-info bytes of S5 under an identifier and a length. -/
def header (id : CanId) (len : BitVec 8) : Frame := vector id len 0x18 0x70 0x17 0x00 0x00 0x00 0x0C 0x4C

/-- Accumulator, status and output after an outcome. -/
def seen : Host.Outcome State Fault Refusal → Option (HarvestData × BitVec 2 × Output)
  | .next t => some (t.acc, t.status, t.out)
  | .fault _ => none
  | .refused _ => none

/-- Accumulator, status and result after one step that takes this operation. -/
def after (s : State) (x : Input) : Option (HarvestData × BitVec 2 × Option Res) :=
  match step { s with pending := [x] } with
  | .next t => some (t.acc, t.status, resOf t.out)
  | .fault _ => none
  | .refused _ => none

/-- V9. -/
theorem test_reset :
    after (holding ⟨1500, 1200, 6000, 12, 76⟩ 0b11) (.cycle { rst := true, frameValid := false, frame := grain 0x18EF00D3 8 }) =
      some (⟨0, 0, 0, 0, 0⟩, 0b00, some ⟨.empty, 0, 0⟩) := by decide

/-- V9: a frame offered in the reset cycle is dropped. -/
theorem test_reset_drops_the_frame :
    after seven (.cycle { rst := true, frameValid := true, frame := grain 0x18EF00D3 8 }) =
      some (⟨0, 0, 0, 0, 0⟩, 0b00, some ⟨.empty, 0, 0⟩) := by decide

/-- V9. -/
theorem test_idle :
    after (holding ⟨1500, 1200, 6000, 12, 76⟩ 0b11) (.cycle { rst := false, frameValid := false, frame := grain 0x18EF00D3 8 }) =
      some (⟨1500, 1200, 6000, 12, 76⟩, 0b11, some ⟨.empty, 0, 0⟩) := by decide

/-- P2, line 6. -/
theorem test_snapshot :
    seen (step { holding ⟨1500, 1200, 6000, 12, 76⟩ 0b11 with pending := [.snap] }) =
      some (⟨1500, 1200, 6000, 12, 76⟩, 0b11, .snapshot ⟨1500, 1200, 6000, 12, 76⟩ 0b11) := by decide

/-- S3, with its message. -/
theorem test_frame_grain_flow :
    seen (step { holding ⟨0, 0, 6000, 12, 76⟩ 0 with pending := [offer (grain 0x18EF00D3 8)] }) =
      some (⟨1500, 1200, 6000, 12, 76⟩, 0, .transaction ⟨.updated, 0, 0b00011⟩
        (some ⟨61184, 211, 6, 0x000004B005DC094F, 0⟩)) := by decide

/-- V8: both illegal; a length violation is found before the unknown PGN. -/
theorem test_frame_both_violations :
    after seven (offer (grain 0xFFFFFFFF 255)) = some (⟨7, 8, 9, 10, 11⟩, 0b11, some ⟨.errInvalidIdentifier, 0, 0⟩) ∧
      after seven (offer (grain 0x1804D2D3 200)) = some (⟨7, 8, 9, 10, 11⟩, 0b10, some ⟨.errFrameTooLong, 0, 0⟩) := by decide

/-- V8. -/
theorem test_invalidId_rows :
    seen (exec (.invalidIdB31 0x98EF00D3 8) seven) =
        some (⟨7, 8, 9, 10, 11⟩, 0b01, .transaction ⟨.errInvalidIdentifier, 0, 0⟩ none) ∧
      seen (exec (.invalidIdB30 0x40000000 8) seven) =
        some (⟨7, 8, 9, 10, 11⟩, 0b01, .transaction ⟨.errInvalidIdentifier, 0, 0⟩ none) ∧
      seen (exec (.invalidIdB29 0x20000000 0) seven) =
        some (⟨7, 8, 9, 10, 11⟩, 0b01, .transaction ⟨.errInvalidIdentifier, 0, 0⟩ none) ∧
      seen (exec (.invalidIdB31 0xFFFFFFFF 255) seven) =
        some (⟨7, 8, 9, 10, 11⟩, 0b11, .transaction ⟨.errInvalidIdentifier, 0, 0⟩ none) := by decide

/-- V8 and P2 line 4: the flag that was set stays set. -/
theorem test_frameTooLong_rows :
    seen (exec (.frameTooLongB7 0x1804D2D3 200) seven) =
        some (⟨7, 8, 9, 10, 11⟩, 0b10, .transaction ⟨.errFrameTooLong, 0, 0⟩ none) ∧
      seen (exec (.frameTooLongB3b0 0x18EF00D3 9) (holding ⟨1500, 1200, 6000, 12, 76⟩ 0b01)) =
        some (⟨1500, 1200, 6000, 12, 76⟩, 0b11, .transaction ⟨.errFrameTooLong, 0, 0⟩ none) := by decide

/-- V6: spacing byte absent. -/
theorem test_valid_header_info :
    seen (exec (.valid (header 0x18FFFFEA 7)) seven) =
      some (⟨7, 8, 6000, 12, 0⟩, 0, .transaction ⟨.updated, 1, 0b11100⟩ (some ⟨65535, 234, 6, 0x000C000000177018, 0⟩)) := by
  decide

/-- V4: PGN 1234 is no key. -/
theorem test_valid_unknown_pgn :
    seen (exec (.valid (header 0x1804D2EA 8)) seven) =
      some (⟨7, 8, 9, 10, 11⟩, 0, .transaction ⟨.naPgn, 0, 0⟩ (some ⟨1234, 234, 6, 0x4C0C000000177018, 0⟩)) := by decide

/-- V5: bytes 6 and 7 ignored. -/
theorem test_grainflow :
    seen (exec (.grainflow 6 1500 1200 0xABCD 0) seven) =
      some (⟨1500, 1200, 9, 10, 11⟩, 0, .transaction ⟨.updated, 0, 0b00011⟩ (some ⟨61184, 211, 6, 0xABCD04B005DC094F, 0⟩)) := by
  decide

/-- P2 lines 0 and 1. -/
theorem test_grainflow_rejections :
    seen (exec (.gfNaSource 6 234 0x000004B005DC094F 0) seven) =
        some (⟨7, 8, 9, 10, 11⟩, 0, .transaction ⟨.naSource, 0, 0⟩ (some ⟨61184, 234, 6, 0x000004B005DC094F, 0⟩)) ∧
      seen (exec (.gfNaOpcode 6 0x000004B005DC092F 0) seven) =
        some (⟨7, 8, 9, 10, 11⟩, 0, .transaction ⟨.naOpcode, 0, 0⟩ (some ⟨61184, 211, 6, 0x000004B005DC092F, 0⟩)) := by decide

/-- V6 and P3: the three sources. -/
theorem test_headerinfo_rows :
    seen (exec (.headerinfoS211 6 9000 0 16 50 0) seven) =
        some (⟨7, 8, 9000, 16, 50⟩, 0, .transaction ⟨.updated, 1, 0b11100⟩ (some ⟨65535, 211, 6, 0x3210000000232818, 0⟩)) ∧
      seen (exec (.headerinfoS234 6 6000 0xCCBBAA 12 76 0) seven) =
        some (⟨7, 8, 6000, 12, 76⟩, 0, .transaction ⟨.updated, 1, 0b11100⟩ (some ⟨65535, 234, 6, 0x4C0CCCBBAA177018, 0⟩)) ∧
      seen (exec (.headerinfoS242 7 6000 0 12 76 0) seven) =
        some (⟨7, 8, 6000, 12, 76⟩, 0, .transaction ⟨.updated, 1, 0b11100⟩ (some ⟨65535, 242, 7, 0x4C0C000000177018, 0⟩)) := by
  decide

/-- V4 and V6. -/
theorem test_headerinfo_rejections :
    seen (exec (.hiNaOpcodeS211 6 0x000004B005DC094F 0) seven) =
        some (⟨7, 8, 9, 10, 11⟩, 0, .transaction ⟨.naOpcode, 1, 0⟩ (some ⟨65535, 211, 6, 0x000004B005DC094F, 0⟩)) ∧
      seen (exec (.hiNaOpcodeS234 6 0x4C0C000000177019 0) seven) =
        some (⟨7, 8, 9, 10, 11⟩, 0, .transaction ⟨.naOpcode, 1, 0⟩ (some ⟨65535, 234, 6, 0x4C0C000000177019, 0⟩)) ∧
      seen (exec (.hiNaOpcodeS242 6 0 0) seven) =
        some (⟨7, 8, 9, 10, 11⟩, 0, .transaction ⟨.naOpcode, 1, 0⟩ (some ⟨65535, 242, 6, 0, 0⟩)) ∧
      seen (exec (.hiNaSource 6 212 0x4C0C000000177018 0) seven) =
        some (⟨7, 8, 9, 10, 11⟩, 0, .transaction ⟨.naSource, 1, 0⟩ (some ⟨65535, 212, 6, 0x4C0C000000177018, 0⟩)) := by decide

/-- P2 line 2. -/
theorem test_ignore :
    seen (exec (.ignore 6 1234 211 0x000004B005DC094F 0) seven) =
      some (⟨7, 8, 9, 10, 11⟩, 0, .transaction ⟨.naPgn, 0, 0⟩ (some ⟨1234, 211, 6, 0x000004B005DC094F, 0⟩)) := by decide

/-- V5: the lengths 6 to 0 on an accepted grain-flow identifier. -/
theorem test_short_grain_flow :
    after seven (offer (grain 0x18EF00D3 5)) = some (⟨1500, 176, 9, 10, 11⟩, 0, some ⟨.updated, 0, 0b00011⟩) ∧
      after seven (offer (grain 0x18EF00D3 3)) = some (⟨220, 0, 9, 10, 11⟩, 0, some ⟨.updated, 0, 0b00011⟩) ∧
      after seven (offer (grain 0x18EF00D3 2)) = some (⟨0, 0, 9, 10, 11⟩, 0, some ⟨.updated, 0, 0b00011⟩) ∧
      after seven (offer (grain 0x18EF00D3 1)) = some (⟨7, 8, 9, 10, 11⟩, 0, some ⟨.naOpcode, 0, 0⟩) := by decide

/-- V6: the lengths 2 to 0 on an accepted header-info identifier. -/
theorem test_short_header_info :
    after seven (offer (header 0x18FFFFEA 2)) = some (⟨7, 8, 112, 0, 0⟩, 0, some ⟨.updated, 1, 0b11100⟩) ∧
      after seven (offer (header 0x18FFFFF2 1)) = some (⟨7, 8, 0, 0, 0⟩, 0, some ⟨.updated, 1, 0b11100⟩) ∧
      after seven (offer (header 0x18FFFFEA 0)) = some (⟨7, 8, 9, 10, 11⟩, 0, some ⟨.naOpcode, 1, 0⟩) := by decide

/-- 30_encoding.md R88: the two pseudo-frames are the frames of P1. -/
theorem test_pseudo_frames :
    gfFrame 211 1500 1200 6 0 = grain 0x18EF00D3 8 ∧ hiFrame 234 6000 12 76 6 0 = header 0x18FFFFEA 8 := by decide

/-- A word of the table placed after reset is what the next step runs: the output of a grain-flow frame appears. -/
theorem test_withFetchWord :
    seen (step (State.reset.withFetchWord 96 0x18EF00D3000004B005DC094F)) =
      some (⟨1500, 1200, 0, 0, 0⟩, 0, .transaction ⟨.updated, 0, 0b00011⟩
        (some ⟨61184, 211, 6, 0x000004B005DC094F, 0⟩)) := by decide

/-! ### Witnesses: for every statement with hypotheses, values that meet all of them together -/

/-- A state in which these operations are issued. -/
def issuing (l : List Input) : State := { seven with pending := l }

theorem witness_ResetGivesS0AndDropsAFrame :
    (issuing [.cycle ⟨true, true, grain 0x18EF00D3 8⟩, .snap]).pending =
      .cycle { rst := true, frameValid := true, frame := grain 0x18EF00D3 8 } :: [.snap] := rfl

theorem witness_StepRunsTheDecodedInstruction :
    (issuing [offer (grain 0x18EF00D3 8), .snap]).pending =
        .cycle { rst := false, frameValid := true, frame := grain 0x18EF00D3 8 } :: [.snap] ∧
      (issuing []).pending = [] := ⟨rfl, rfl⟩

theorem witness_SnapshotReturnsTheRegisters :
    (issuing [.snap, offer (grain 0x18EF00D3 8)]).pending = .snap :: [offer (grain 0x18EF00D3 8)] := rfl

/-- With a message and without. -/
theorem witness_OutputPortsShowTheRegisters :
    (∃ t r m, step (issuing [offer (grain 0x18EF00D3 8)]) = .next t ∧ t.out = .transaction r (some m)) ∧
      ∃ r, (issuing []).out = .transaction r none := ⟨⟨_, _, _, rfl, rfl⟩, ⟨_, rfl⟩⟩

/-- One term of each stage, at the edge of its row. -/
theorem witness_DecodeOfEncodeIsTheInstruction :
    Instr.wf (.frame (grain 0x18EF00D3 8)) = true ∧ Instr.wf (.invalidIdB29 0x3FFFFFFF 255) = true ∧
      Instr.wf (.frameTooLongB3b0 0x1FFFFFFF 9) = true ∧ Instr.wf (.valid (header 0x1FFFFFFF 8)) = true ∧
      Instr.wf (.hiNaSource 7 255 0xFFFFFFFFFFFFFFFF 0) = true ∧ Instr.wf (.ignore 7 0x3FFFF 255 0 0) = true := by decide

theorem witness_EncodedInstructionsRunFromThePins : Instr.wf (.headerinfoS242 7 65535 0xFFFFFF 255 255 0) = true := rfl

theorem witness_PlacedTableWordsRun : ∃ i, decodeTableWord 96 0x18FFFFEA4C0C000000177018 = some i := ⟨_, rfl⟩

/-- The least illegal identifier and the greatest. -/
theorem witness_IdentifierAboveTwentyNineBitsFails :
    0x20000000 ≤ (grain 0x20000000 8).id.toNat ∧ 0x20000000 ≤ (grain 0xFFFFFFFF 255).id.toNat := by decide

/-- The least legal identifier and the greatest. -/
theorem witness_IdentifiersAndTriplesCorrespond :
    (0x1FFFFFFF : CanId).toNat ≤ 0x1FFFFFFF ∧ (0 : CanId).toNat ≤ 0x1FFFFFFF := by decide

theorem witness_BytesLieLittleEndianInThePayload :
    (8 : BitVec 8).toNat ≤ 8 ∧ 7 < (8 : BitVec 8).toNat ∧ (1 : BitVec 8).toNat ≤ 8 ∧ 0 < (1 : BitVec 8).toNat := by decide

theorem witness_PayloadIsTheSumOfItsBytes : (8 : BitVec 8).toNat ≤ 8 ∧ (0 : BitVec 8).toNat ≤ 8 := by decide

theorem witness_LanesAboveTheLengthAreZero :
    (grain 0x18EF00D3 0).len = 0 ∧ legalId (grain 0x18EF00D3 0).id ∧ (7 : BitVec 8).toNat < 8 ∧ (0 : BitVec 8).toNat < 8 := by
  decide

/-- The least illegal length and the greatest; the last clause under a legal identifier. -/
theorem witness_LengthAboveEightFails :
    8 < (grain 0x18EF00D3 9).len.toNat ∧ legalId (grain 0x18EF00D3 9).id ∧ 8 < (grain 0x18EF00D3 255).len.toNat := by decide

/-- The whole payload, its top bit, and two payloads that agree on bits 8 to 23. -/
theorem witness_FieldIsItsSlice :
    (1 ≤ 64 ∧ 0 + 64 ≤ 64) ∧ (1 ≤ 1 ∧ 63 + 1 ≤ 64) ∧
      ∀ k, 8 ≤ k → k < 8 + 16 → (0x177018 : Payload).getLsbD k = (0x177024 : Payload).getLsbD k := by
  refine ⟨by decide, by decide, ?_⟩
  intro k _ _
  interval_cases k <;> decide

theorem witness_ByteFieldsAreFrameReads :
    ((8 : BitVec 8).toNat ≤ 8 ∧ 1 ≤ 8 ∧ 0 + 8 ≤ 8) ∧ ((0 : BitVec 8).toNat ≤ 8 ∧ 1 ≤ 1 ∧ 7 + 1 ≤ 8) := by decide

/-- A scaled field and an unscaled one. -/
theorem witness_PhysicalValuesOfTheFields :
    grainFlowHandler opcGf ∈ table.handlers ∧ ⟨.grainFlow, 16, 16, scaleGf, 0⟩ ∈ (grainFlowHandler opcGf).fields ∧
      headerInfoHandler ∈ table.handlers ∧ ⟨.rowSpacing, 56, 8, 1, 0⟩ ∈ headerInfoHandler.fields := by
  simp [table, tableFor, grainFlowHandler, headerInfoHandler, noOffset, scaleHi]

/-- A key found, the second entry found, and a PGN that is no key. -/
theorem witness_LookupIsAnExactMatch :
    lookup table 61184 = some (0, grainFlowHandler opcGf) ∧ lookup table 65535 = some (1, headerInfoHandler) ∧
      lookup table 1234 = none := ⟨rfl, rfl, rfl⟩

/-- A table with a third entry behind the two. -/
def longerTable : DispatchTable where
  handlers := table.handlers ++ [oneField 1 8 8 .headerRows]
  wf := by decide

/-- The message of the frame of S3. -/
def grainMessage : CanMessage := ⟨61184, 211, 6, 0x000004B005DC094F, 0⟩

theorem witness_LaterEntriesLeaveDispatchAlone :
    longerTable.handlers = table.handlers ++ [oneField 1 8 8 .headerRows] ∧ dispatch table grainMessage ≠ .naPgn :=
  ⟨rfl, by decide⟩

/-- Each of the three branches. -/
theorem witness_GrainFlowDecoder :
    grainMessage.pgn = 61184 ∧ grainMessage.source = 211 ∧ grainMessage.payload.extractLsb' 0 16 = 2383#16 ∧
      ({ grainMessage with source := 210 } : CanMessage).source ≠ 211 ∧
      ({ grainMessage with payload := 0x092F } : CanMessage).payload.extractLsb' 0 16 ≠ 2383#16 := by decide

/-- Each of the three branches. -/
theorem witness_HeaderInfoDecoder :
    (⟨65535, 234, 6, 0x4C0C000000177018, 0⟩ : CanMessage).pgn = 65535 ∧
      (0x4C0C000000177018 : Payload).extractLsb' 0 8 = 24#8 ∧ (0x4C0C000000177019 : Payload).extractLsb' 0 8 ≠ 24#8 ∧
      ¬((212 : SourceAddr) = 211 ∨ (212 : SourceAddr) = 234 ∨ (212 : SourceAddr) = 242) := by decide

/-- A mask bit set and one clear. -/
theorem witness_ApplyMergesByTheMask :
    (gfUpdate 1 2).mask.getLsbD 0 = true ∧ (gfUpdate 1 2).mask.getLsbD 4 = false := by decide

theorem witness_LaterUpdateOfAKindWins : (gfUpdate 1 2).mask = (gfUpdate 3 65535).mask := by decide

theorem witness_ValidRowGoesToStageTwo : legalFrame (header 0x1FFFFFFF 8) ∧ legalFrame (header 0 0) := by decide

/-- Full length, the shortest length that is accepted, and one byte less. -/
theorem witness_GrainFlowUpdatesExactlyItsFrames :
    acceptsGrainFlow (grain 0x18EF00D3 8) ∧ acceptsGrainFlow (grain 0x00EF00D3 2) ∧ ¬acceptsGrainFlow (grain 0x18EF00D3 1) := by
  decide

theorem witness_GrainFlowFrameWritesItsBytes :
    acceptsGrainFlow (grain 0x18EF00D3 8) ∧ acceptsGrainFlow (grain 0x18EF00D3 2) := by decide

/-- Full length, the shortest length that is accepted, and one byte less. -/
theorem witness_HeaderInfoUpdatesExactlyItsFrames :
    acceptsHeaderInfo (header 0x18FFFFD3 8) ∧ acceptsHeaderInfo (header 0x1CFFFFF2 1) ∧ ¬acceptsHeaderInfo (header 0x18FFFFEA 0) := by
  decide

theorem witness_HeaderInfoFrameWritesItsBytes :
    acceptsHeaderInfo (header 0x18FFFFEA 8) ∧ acceptsHeaderInfo (header 0x18FFFFEA 1) := by decide

/-- One frame of each of the three kinds: a wrong PGN, a wrong source, a wrong opcode. -/
theorem witness_IgnoredFramesChangeNothing :
    (legalFrame (grain 0x1804D2D3 8) ∧ ¬acceptsGrainFlow (grain 0x1804D2D3 8) ∧ ¬acceptsHeaderInfo (grain 0x1804D2D3 8)) ∧
      (legalFrame (grain 0x18EF00EA 8) ∧ ¬acceptsGrainFlow (grain 0x18EF00EA 8) ∧ ¬acceptsHeaderInfo (grain 0x18EF00EA 8)) ∧
      (legalFrame (grain 0x18FFFFD3 8) ∧ ¬acceptsGrainFlow (grain 0x18FFFFD3 8) ∧
        ¬acceptsHeaderInfo (grain 0x18FFFFD3 8)) := by decide

/-- A reset, a quiet cycle, an accepted frame of each kind, and a frame that is not. -/
theorem witness_OnlyResetAndAcceptedFramesWriteTheAccumulator :
    (∃ t, step (issuing [.cycle ⟨true, false, .zero⟩]) = .next t ∧
        isReset (nextInput (issuing [.cycle ⟨true, false, .zero⟩])) = true) ∧
      (∃ t, step (issuing []) = .next t ∧ offeredFrame (nextInput (issuing [])) = none) ∧
      (∃ t, step (issuing [offer (grain 0x18EF00D3 8)]) = .next t ∧ acceptsGrainFlow (grain 0x18EF00D3 8)) ∧
      (∃ t, step (issuing [offer (header 0x18FFFFEA 8)]) = .next t ∧ acceptsHeaderInfo (header 0x18FFFFEA 8)) ∧
      ∃ t, step (issuing [offer (grain 0x20000000 8)]) = .next t ∧ ¬acceptsGrainFlow (grain 0x20000000 8) ∧
        ¬acceptsHeaderInfo (grain 0x20000000 8) :=
  ⟨⟨_, rfl, rfl⟩, ⟨_, rfl, rfl⟩, ⟨_, rfl, by decide⟩, ⟨_, rfl, by decide⟩, ⟨_, rfl, by decide, by decide⟩⟩

/-- A reset, a quiet cycle, a frame that is legal and one that is illegal twice; and a cycle for the second clause. -/
theorem witness_FlagsAreStickyAndInfluenceNoDecode :
    (∃ t, step (issuing [.cycle ⟨true, true, .zero⟩]) = .next t) ∧ (∃ t, step (issuing []) = .next t) ∧
      (∃ t, step (issuing [offer (grain 0x18EF00D3 8)]) = .next t ∧ legalFrame (grain 0x18EF00D3 8)) ∧
      (∃ t, step (issuing [offer (grain 0xFFFFFFFF 255)]) = .next t ∧ ¬legalId (grain 0xFFFFFFFF 255).id ∧
        8 < (grain 0xFFFFFFFF 255).len.toNat) ∧
      nextInput (issuing [offer (grain 0x18EF00D3 8)]) = .cycle ⟨false, true, grain 0x18EF00D3 8⟩ :=
  ⟨⟨_, rfl⟩, ⟨_, rfl⟩, ⟨_, rfl, by decide⟩, ⟨_, rfl, by decide, by decide⟩, rfl⟩

/-- Frames of length 3 that differ in bytes 3 to 7 (V2), and of length 0 that differ in all. -/
theorem witness_StaleBytesNeverMatter :
    sameButStale (vector 0x18EF00D3 3 0x4F 0x09 0xDC 0 0 0 0 0) (grain 0x18EF00D3 3) ∧
      sameButStale (vector 0x18EF00D3 0 1 2 3 4 5 6 7 8) (grain 0x18EF00D3 0) :=
  ⟨⟨rfl, rfl, rfl, rfl⟩, ⟨rfl, rfl, rfl, rfl⟩⟩

theorem witness_StaleBytesNeverMatterInARun :
    List.Forall₂ sameInputsButStale [.snap, offer (vector 0x18EF00D3 3 0x4F 0x09 0xDC 0 0 0 0 0)]
      [.snap, offer (grain 0x18EF00D3 3)] :=
  .cons trivial (.cons ⟨rfl, rfl, rfl, rfl, rfl, rfl⟩ .nil)

theorem witness_PriorityAndTimeNeverMatter :
    sameButPriorityAndTime (grain 0x18EF00D3 8) { grain 0x0CEF00D3 8 with ts := 1 } ∧
      (∃ t, exec (.frame (grain 0x18EF00D3 8)) seven = .next t) ∧
      ∃ u, exec (.frame { grain 0x0CEF00D3 8 with ts := 1 }) seven = .next u :=
  ⟨⟨by decide, by decide, rfl, rfl⟩, ⟨_, rfl⟩, ⟨_, rfl⟩⟩

/-- Each violation; and for each clause an operation: a reset, a snapshot, a frame. -/
theorem witness_ViolationsDoNotDisturbLaterOperations :
    ¬legalFrame (grain 0x20000000 8) ∧ ¬legalFrame (grain 0x18EF00D3 9) ∧
      isReset (.cycle ⟨true, false, .zero⟩) = true ∧ isReset .snap = false ∧
      offer (grain 0x18EF00D3 8) ≠ .snap ∧ isReset (offer (grain 0x18EF00D3 8)) = false := by decide

theorem witness_TheTwoKindsOfUpdateAreIndependent :
    acceptsGrainFlow (grain 0x18EF00D3 8) ∧ acceptsHeaderInfo (header 0x18FFFFEA 8) := by decide

/-- A sequence with a last frame of each kind, one with none, and a reset. -/
theorem witness_LastAcceptedFrameWins :
    (∀ x ∈ [offer (grain 0x18EF00D3 8), .snap, offer (header 0x18FFFFEA 8), offer (grain 0x18EF00D3 3)], isReset x = false) ∧
      lastGrainFlow [offer (grain 0x18EF00D3 8), .snap, offer (header 0x18FFFFEA 8), offer (grain 0x18EF00D3 3)] =
        some (grain 0x18EF00D3 3) ∧
      lastHeaderInfo [offer (grain 0x18EF00D3 8), .snap, offer (header 0x18FFFFEA 8), offer (grain 0x18EF00D3 3)] =
        some (header 0x18FFFFEA 8) ∧
      lastGrainFlow [.snap] = none ∧ lastHeaderInfo [.snap] = none ∧ isReset (.cycle ⟨true, false, .zero⟩) = true := by decide

/-- A state with a message at its output, and its next step. -/
theorem witness_StepKeepsTheInvariant :
    Inv { holding ⟨1500, 1200, 0, 0, 0⟩ 0 with out := .transaction ⟨.updated, 0, 0b00011⟩ (some grainMessage) } ∧
      ∃ t, step { holding ⟨1500, 1200, 0, 0, 0⟩ 0 with out := .transaction ⟨.updated, 0, 0b00011⟩ (some grainMessage) } =
        .next t := by
  refine ⟨⟨⟨grainMessage, rfl, .inl ⟨rfl, rfl, ⟨rfl, rfl, by decide⟩, by decide, by decide⟩⟩, ?_⟩, ⟨_, rfl⟩⟩
  intro m h
  cases h
  decide

theorem witness_InvalidIdRowsTakeTheViolation :
    ∃ i : Instr, i = .invalidIdB31 0x80000000 8 ∨ i = .invalidIdB30 0x80000000 8 ∨ i = .invalidIdB29 0x80000000 8 :=
  ⟨_, .inl rfl⟩

theorem witness_FrameTooLongRowsTakeTheViolation :
    ∃ i : Instr, i = .frameTooLongB7 0 9 ∨ i = .frameTooLongB6 0 9 ∨ i = .frameTooLongB5 0 9 ∨ i = .frameTooLongB4 0 9 ∨
      i = .frameTooLongB3b2 0 9 ∨ i = .frameTooLongB3b1 0 9 ∨ i = .frameTooLongB3b0 0 9 :=
  ⟨_, .inr (.inr (.inr (.inr (.inr (.inr rfl)))))⟩

theorem witness_HeaderinfoRowsWriteTheirThreeFields :
    ∃ (i : Instr) (source : SourceAddr),
      (i = .headerinfoS211 6 6000 0 12 76 0 ∧ source = 211) ∨ (i = .headerinfoS234 6 6000 0 12 76 0 ∧ source = 234) ∨
        (i = .headerinfoS242 6 6000 0 12 76 0 ∧ source = 242) := ⟨_, _, .inr (.inl ⟨rfl, rfl⟩)⟩

theorem witness_UnknownPgnIsIgnored :
    ({ grainMessage with pgn := 1234 } : CanMessage).pgn ≠ 61184 ∧ ({ grainMessage with pgn := 1234 } : CanMessage).pgn ≠ 65535 ∧
      ({ grainMessage with pgn := 0x10000 + 61184 } : CanMessage).pgn ≠ 61184 := by decide

end Sys2Proof.Tests
end

section
/-! SUPPORT. What a frame does, in the spec's own numbers: the pipeline over this hardware's table gives `frameOutcome`, and
which of its branches write the accumulator (10_state.md R25, R27). -/

namespace Sys2Proof.Proofs

open Sys2Proof Sys2Proof.Machine Sys2Proof.Safety Sys2Proof.Config Sys2Proof.Laws

/-! ### A frame's outcome in the spec's numbers -/

/-- The message of a valid frame is the one cut from the bits of its identifier (10_state.md R31). -/
theorem messageOf_eq_messageIn (f : Frame) : messageOf f = messageIn f := by
  simp [messageOf, messageIn, compose]

/-- Zero-extending both sides, as the dispatcher compares them (90_conflicts.md C6), identifies no two PGNs. -/
theorem setWidth_pgn_eq_iff (key pgn : Pgn) : key.setWidth 32 = pgn.setWidth 32 ↔ pgn = key := by
  constructor
  · intro h
    simpa using (congrArg (BitVec.setWidth 18) h).symm
  · rintro rfl; rfl

/-- Entry 0's verdict on a message, delivered (43_signal_decoders.md R131). -/
theorem deliver_signalDecode_grainFlow (msg : CanMessage) (s : State) :
    deliver (signalDecode 0 (grainFlowHandler opcGf) msg) msg s =
      if msg.source ≠ 211#8 then { s with out := .transaction ⟨.naSource, 0, 0⟩ (some msg) }
      else if msg.payload.extractLsb' 0 16 ≠ 2383#16 then { s with out := .transaction ⟨.naOpcode, 0, 0⟩ (some msg) }
      else { s with
        acc := { s.acc with
          grainFlow := msg.payload.extractLsb' 16 16, grainMoisture := msg.payload.extractLsb' 32 16 }
        out := .transaction ⟨.updated, 0, 0b00011⟩ (some msg) } := by
  rw [signalDecode_grainFlow, show srcGf = 211#8 from rfl, show opcGf = 2383#16 from rfl]
  by_cases hsrc : msg.source = 211#8
  · by_cases hopc : msg.payload.extractLsb' 0 16 = 2383#16
    · simp [hsrc, hopc, deliver, mergeUpdate, apply_gfUpdate]
    · simp [hsrc, hopc, deliver, report]
  · simp [hsrc, deliver, report]

/-- Entry 1's verdict on a message, delivered (43_signal_decoders.md R137). -/
theorem deliver_signalDecode_headerInfo (msg : CanMessage) (s : State) :
    deliver (signalDecode 1 headerInfoHandler msg) msg s =
      if msg.source ≠ 211#8 ∧ msg.source ≠ 234#8 ∧ msg.source ≠ 242#8 then
        { s with out := .transaction ⟨.naSource, 1, 0⟩ (some msg) }
      else if msg.payload.extractLsb' 0 8 ≠ 24#8 then { s with out := .transaction ⟨.naOpcode, 1, 0⟩ (some msg) }
      else { s with
        acc := { s.acc with
          headerWidth := msg.payload.extractLsb' 8 16
          headerRows := msg.payload.extractLsb' 48 8
          rowSpacing := msg.payload.extractLsb' 56 8 }
        out := .transaction ⟨.updated, 1, 0b11100⟩ (some msg) } := by
  have hsources : (msg.source = 211#8 ∨ msg.source = 234#8 ∨ msg.source = 242#8) ↔
      ¬(msg.source ≠ 211#8 ∧ msg.source ≠ 234#8 ∧ msg.source ≠ 242#8) := by tauto
  rw [signalDecode_headerInfo, show srcHi1 = 211#8 from rfl, show srcHi2 = 234#8 from rfl, show srcHi3 = 242#8 from rfl,
    show opcHi = 24#8 from rfl, if_congr hsources rfl rfl, ite_not]
  split
  · rfl
  · by_cases hopc : msg.payload.extractLsb' 0 8 = 24#8
    · simp [hopc, deliver, mergeUpdate, apply_hiUpdate]
    · simp [hopc, deliver, report]

/-- Dispatching a valid frame's message and delivering the verdict is the table under 45_block_operations.md R163. -/
theorem deliver_dispatch_table (f : Frame) (s : State) :
    deliver (dispatch table (messageOf f)) (messageOf f) s = validOutcome f s := by
  have hgf : pgnGf.setWidth 32 = (messageIn f).pgn ↔ f.id.extractLsb' 8 18 = 61184#18 := setWidth_pgn_eq_iff _ _
  have hhi : pgnHi.setWidth 32 = (messageIn f).pgn ↔ f.id.extractLsb' 8 18 = 65535#18 := setWidth_pgn_eq_iff _ _
  rw [messageOf_eq_messageIn, table, dispatch_tableFor]
  by_cases h0 : f.id.extractLsb' 8 18 = 61184#18
  · rw [if_pos (hgf.mpr h0), deliver_signalDecode_grainFlow]
    simp [validOutcome, messageIn, h0]
  · rw [if_neg (mt hgf.mp h0)]
    by_cases h1 : f.id.extractLsb' 8 18 = 65535#18
    · rw [if_pos (hhi.mpr h1), deliver_signalDecode_headerInfo]
      simp [validOutcome, messageIn, h1]
    · rw [if_neg (mt hhi.mp h1)]
      simp [validOutcome, h0, h1, deliver, report]

/-- A FRAME transaction over this hardware's table is the whole table under 45_block_operations.md R163. -/
theorem processFrame_table (f : Frame) (s : State) : processFrame table f s = frameOutcome f s := by
  rw [processFrame_eq, deliver_dispatch_table, idIllegal_eq, lenIllegal_eq, frameOutcome]
  simp only [decide_eq_true_eq]
  split
  · by_cases hlen : 8 < f.len.toNat <;> simp [hlen] <;> rfl
  · rfl

/-! ### Accepted frames, in their payload -/

/-- A lane holds a value other than zero only from a byte below the length (20_memory.md R48). -/
theorem lane_eq_iff {len : Length} {j : Nat} {b v : Byte} (hv : v ≠ 0) : lane len j b = v ↔ j < len.toNat ∧ b = v := by
  rw [lane]
  split
  next hj => simp [hj]
  next hj => exact ⟨fun h => absurd h.symm hv, fun h => absurd h.1 hj⟩

/-- Two bytes side by side are another two exactly when each is the other's. -/
theorem byte_append_inj (a b c d : Byte) : (a ++ b : BitVec 16) = c ++ d ↔ a = c ∧ b = d := by
  have := byte_lt b; have := byte_lt d
  simp only [← BitVec.toNat_inj, append_toNat, two_pow_byteW]
  omega

/-- The two opcode bytes of grain flow, 4F 09, read little-endian (20_memory.md R50). -/
theorem grainFlowOpcode_iff (f : Frame) :
    (payloadOf f).extractLsb' 0 16 = 2383#16 ↔ 2 ≤ f.len.toNat ∧ f.bytes.b0 = 0x4F#8 ∧ f.bytes.b1 = 0x09#8 := by
  obtain ⟨-, hslice, -⟩ := payload_slices f.len f.bytes
  rw [payloadOf, hslice, show 2383#16 = 0x09#8 ++ 0x4F#8 from rfl, byte_append_inj, lane_eq_iff (by decide),
    lane_eq_iff (by decide)]
  constructor
  · rintro ⟨⟨hlen, hb1⟩, -, hb0⟩
    exact ⟨hlen, hb0, hb1⟩
  · rintro ⟨hlen, hb0, hb1⟩
    exact ⟨⟨hlen, hb1⟩, by omega, hb0⟩

/-- The opcode byte of header info, 18 (20_memory.md R51). -/
theorem headerInfoOpcode_iff (f : Frame) :
    (payloadOf f).extractLsb' 0 8 = 24#8 ↔ 1 ≤ f.len.toNat ∧ f.bytes.b0 = 0x18#8 := by
  obtain ⟨hslice, -⟩ := payload_slices f.len f.bytes
  rw [payloadOf, hslice]
  exact lane_eq_iff (by decide)

/-- The frames handler 0 accepts, by PGN, source and opcode as the Signal Decoder tests them. -/
theorem acceptsGrainFlow_iff (f : Frame) :
    acceptsGrainFlow f ↔ legalFrame f ∧ f.id.extractLsb' 8 18 = 61184#18 ∧ f.id.extractLsb' 0 8 = 211#8 ∧
      (payloadOf f).extractLsb' 0 16 = 2383#16 := by
  rw [grainFlowOpcode_iff, and_assoc]

/-- The frames handler 1 accepts, by PGN, source and opcode as the Signal Decoder tests them. -/
theorem acceptsHeaderInfo_iff (f : Frame) :
    acceptsHeaderInfo f ↔ legalFrame f ∧ f.id.extractLsb' 8 18 = 65535#18 ∧
      (f.id.extractLsb' 0 8 = 211#8 ∨ f.id.extractLsb' 0 8 = 234#8 ∨ f.id.extractLsb' 0 8 = 242#8) ∧
      (payloadOf f).extractLsb' 0 8 = 24#8 := by
  rw [headerInfoOpcode_iff, and_assoc]

/-- No frame is accepted by both handlers: their PGNs differ. -/
theorem not_acceptsGrainFlow_of_acceptsHeaderInfo {f : Frame} (h : acceptsHeaderInfo f) : ¬acceptsGrainFlow f := by
  obtain ⟨-, -, hhi, -⟩ := h
  rintro ⟨-, -, hgf, -⟩
  exact absurd (hgf.symm.trans hhi) (by decide)

/-! ### What a frame writes to the accumulator (10_state.md R25) -/

/-- A legal frame's outcome is a valid frame's. -/
theorem frameOutcome_of_legal {f : Frame} (h : legalFrame f) (s : State) : frameOutcome f s = validOutcome f s := by
  obtain ⟨hid, hlen⟩ := h
  rw [frameOutcome, if_neg (not_not.mpr hid), if_neg (Nat.not_lt.mpr hlen)]

/-- A violation writes no accumulator field. -/
theorem frameOutcome_acc_of_illegal {f : Frame} (h : ¬legalFrame f) (s : State) : (frameOutcome f s).acc = s.acc := by
  rw [frameOutcome]
  split
  · rfl
  next hid =>
    split
    · rfl
    next hlen => exact absurd ⟨not_not.mp hid, Nat.not_lt.mp hlen⟩ h

/-- A frame that handler 0 accepts writes exactly the two grain fields. -/
theorem frameOutcome_acc_of_acceptsGrainFlow {f : Frame} (h : acceptsGrainFlow f) (s : State) :
    (frameOutcome f s).acc = { s.acc with
      grainFlow := (payloadOf f).extractLsb' 16 16, grainMoisture := (payloadOf f).extractLsb' 32 16 } := by
  obtain ⟨hlegal, hpgn, hsrc, hopc⟩ := (acceptsGrainFlow_iff f).mp h
  rw [frameOutcome_of_legal hlegal]
  simp [validOutcome, hpgn, hsrc, hopc]

/-- A frame that handler 1 accepts writes exactly the three header fields. -/
theorem frameOutcome_acc_of_acceptsHeaderInfo {f : Frame} (h : acceptsHeaderInfo f) (s : State) :
    (frameOutcome f s).acc = { s.acc with
      headerWidth := (payloadOf f).extractLsb' 8 16
      headerRows := (payloadOf f).extractLsb' 48 8
      rowSpacing := (payloadOf f).extractLsb' 56 8 } := by
  obtain ⟨hlegal, hpgn, hsrc, hopc⟩ := (acceptsHeaderInfo_iff f).mp h
  rw [frameOutcome_of_legal hlegal]
  obtain hsrc | hsrc | hsrc := hsrc <;> simp [validOutcome, hpgn, hsrc, hopc]

/-- A frame that no handler accepts, legal or not, writes no accumulator field. -/
theorem frameOutcome_acc_of_not_accepted {f : Frame} (hgf : ¬acceptsGrainFlow f) (hhi : ¬acceptsHeaderInfo f) (s : State) :
    (frameOutcome f s).acc = s.acc := by
  by_cases hlegal : legalFrame f
  · rw [acceptsGrainFlow_iff] at hgf
    rw [acceptsHeaderInfo_iff] at hhi
    rw [frameOutcome_of_legal hlegal]
    simp only [validOutcome]
    split_ifs with hpgn hpgn0 hsrc hopc hsrc hopc
    · rfl
    · rfl
    · rfl
    · exact absurd ⟨hlegal, hpgn0, not_not.mp hsrc, not_not.mp hopc⟩ hgf
    · rfl
    · rfl
    · have hpgn1 : f.id.extractLsb' 8 18 = 65535#18 := by_contra fun h => hpgn ⟨hpgn0, h⟩
      simp only [ne_eq, ← not_or, not_not] at hsrc
      exact absurd ⟨hlegal, hpgn1, hsrc, not_not.mp hopc⟩ hhi
  · exact frameOutcome_acc_of_illegal hlegal s

/-! ### The two statements -/

/-- Settles O41: of the four things a step can do, RESET writes five zeros, IDLE and a sample write nothing, and a frame writes
what `frameOutcome` does. -/
theorem onlyResetAndAcceptedFramesWriteTheAccumulator : Obligations.OnlyResetAndAcceptedFramesWriteTheAccumulator := by
  intro s t ht
  obtain ⟨v, f, hin, hs⟩ | ⟨f, hin, hs⟩ | ⟨f, hin, hs⟩ | ⟨hin, hs⟩ := step_cases s
  all_goals
    rw [hs] at ht
    cases ht
    rw [hin]
  · rfl
  · rfl
  · rw [processFrame_table]
    exact ⟨fun h => frameOutcome_acc_of_acceptsGrainFlow h (advance s),
      fun h => frameOutcome_acc_of_acceptsHeaderInfo h (advance s),
      fun hgf hhi => frameOutcome_acc_of_not_accepted hgf hhi (advance s)⟩
  · rfl

/-- Settles O1: the five fields are zero by the definition of reset, and every encoding sends the count 0 to what compares
equal to 0 (10_state.md R23). -/
theorem resetLeavesAccumulatorZero : Obligations.ResetLeavesAccumulatorZero :=
  ⟨rfl, fun _ enc => ⟨enc.zero, enc.zero⟩⟩

end Sys2Proof.Proofs
end

section
/-! SUPPORT. Frames and runs: the bytes at or above the length reach nothing (20_memory.md R48, R61), and a run of issued
operations does them one after another (20_memory.md R57). -/

namespace Sys2Proof.Proofs

open Sys2Proof Sys2Proof.Machine Sys2Proof.Safety Sys2Proof.Config Sys2Proof.Laws

/-! ### Stale bytes -/

/-- The lanes are the bytes below the length, then zeros (20_memory.md R48): no stale byte stands on the right. -/
theorem lanes_eq_take_append_zeros (len : Length) (fb : FrameBuffer) :
    lanes len fb = (bytesOf fb).take len.toNat ++ List.replicate (8 - len.toNat) 0 := by
  have hmap : lanes len fb = (bytesOf fb).mapIdx (lane len) := rfl
  have hlen : (bytesOf fb).length = 8 := rfl
  rw [hmap]
  apply List.ext_getElem
  · simp only [List.length_mapIdx, List.length_append, List.length_take, List.length_replicate, hlen]
    omega
  · intro j hj _
    rw [List.length_mapIdx, hlen] at hj
    by_cases hfresh : j < len.toNat
    · simp [lane, hlen, hj, hfresh]
    · simp [lane, List.getElem_append, hfresh]

/-- PACK reads nothing but the bytes below the length (41_payload_assembler.md R108). -/
theorem pack_congr {len : Length} {fb fb' : FrameBuffer}
    (h : (bytesOf fb).take len.toNat = (bytesOf fb').take len.toNat) : pack len fb = pack len fb' := by
  have hread : memRead len fb 0 8 = memRead len fb' 0 8 := by
    rw [memRead, memRead, lanes_eq_take_append_zeros, lanes_eq_take_append_zeros, h]
  rw [pack_eq, pack_eq, hread]

/-- A FRAME transaction looks at the buffer through PACK only (45_block_operations.md R161). -/
theorem processFrame_congr {f g : Frame} (t : DispatchTable) (s : State) (hid : f.id = g.id) (hts : f.ts = g.ts)
    (hpack : pack f.len f.bytes = pack g.len g.bytes) : processFrame t f s = processFrame t g s := by
  rw [processFrame, processFrame, hid, hts, hpack]

/-- Frames that differ in stale bytes only are one transaction. -/
theorem processFrame_of_sameButStale {f g : Frame} (h : sameButStale f g) (t : DispatchTable) (s : State) :
    processFrame t f s = processFrame t g s := by
  obtain ⟨hid, hlen, hts, hbytes⟩ := h
  rw [← hlen] at hbytes
  exact processFrame_congr t s hid hts (hlen ▸ pack_congr hbytes)

/-- FRAME is the transaction over this hardware's table. -/
theorem exec_frame (f : Frame) (s : State) : exec (.frame f) s = .next (processFrame table f s) := rfl

/-- Settles O43: stale lanes read as zero, and a frame's transaction looks at the buffer through PACK only. -/
theorem staleBytesNeverMatter : Obligations.StaleBytesNeverMatter := by
  refine ⟨fun _ _ _ h => pack_congr h, fun f g s h => ?_⟩
  rw [exec_frame, exec_frame, processFrame_of_sameButStale h]

/-! ### One operation, whatever stands behind it in the queue -/

/-- Delivering a verdict commutes with a change of the queue. -/
theorem deliver_with_pending (v : Verdict) (msg : CanMessage) (s : State) (q : List Input) :
    deliver v msg { s with pending := q } = { deliver v msg s with pending := q } := by
  cases v <;> rfl

/-- A frame does the same whatever stands in the queue. -/
theorem processFrame_with_pending (t : DispatchTable) (f : Frame) (s : State) (q : List Input) :
    processFrame t f { s with pending := q } = { processFrame t f s with pending := q } := by
  rw [processFrame_eq, processFrame_eq]
  split
  · rfl
  · split
    · rfl
    · exact deliver_with_pending ..

/-- The oldest operation does what it does alone and leaves the operations behind it (20_memory.md R57). -/
theorem step_cons_of_step_alone {x : Input} {s t : State} (q : List Input)
    (h : step { s with pending := [x] } = .next t) :
    step { s with pending := x :: q } = .next { t with pending := q } := by
  cases x with
  | snap =>
    cases h
    rfl
  | cycle p =>
    have hstep (q : List Input) :
        step { s with pending := .cycle p :: q } = exec (decodePins p) { s with pending := q } := rfl
    rw [hstep, decodePins_eq] at h ⊢
    by_cases hrst : p.rst = true
    · rw [if_pos hrst] at h ⊢
      cases h
      rfl
    · rw [if_neg hrst] at h ⊢
      by_cases hvalid : p.frameValid = true
      · rw [if_pos hvalid, exec_frame, processFrame_with_pending] at h ⊢
        cases h
        rfl
      · rw [if_neg hvalid] at h ⊢
        cases h
        rfl

/-- Every step answers a next state (70_reset_and_hazards.md R214) and takes one operation off the queue. -/
theorem exists_step_eq_next (s : State) : ∃ t, step s = .next t ∧ t.pending = s.pending.tail := by
  obtain ⟨v, f, -, hs⟩ | ⟨f, -, hs⟩ | ⟨f, -, hs⟩ | ⟨-, hs⟩ := step_cases s <;> exact ⟨_, hs, by simp⟩

/-! ### The effect of one operation, and of a run of them -/

/-- The effect of an operation is the state its step answers. -/
theorem effect_eq_of_step {x : Input} {s t : State} (h : step { s with pending := [x] } = .next t) : effect s x = t := by
  rw [effect, h]

/-- One operation issued alone answers its effect. -/
theorem step_alone (x : Input) (s : State) : step { s with pending := [x] } = .next (effect s x) := by
  obtain ⟨t, ht, -⟩ := exists_step_eq_next { s with pending := [x] }
  rw [effect_eq_of_step ht, ht]

/-- The effect of an operation issued alone leaves nothing issued. -/
@[simp] theorem effect_pending (s : State) (x : Input) : (effect s x).pending = [] := by
  obtain ⟨t, ht, hpending⟩ := exists_step_eq_next { s with pending := [x] }
  rw [effect_eq_of_step ht, hpending]
  rfl

/-- What stood in the queue before is no part of the effect. -/
theorem effect_with_pending (s : State) (q : List Input) (x : Input) :
    effect { s with pending := q } x = effect s x :=
  effect_eq_of_step (step_alone x s)

/-- The first operation of a run has its whole effect before the others run (20_memory.md R57). -/
theorem runInputs_cons (x : Input) (l : List Input) (s : State) : runInputs (x :: l) s = runInputs l (effect s x) :=
  run_of_step l.length (step_cons_of_step_alone l (step_alone x s))

/-- Settles O49, by induction on the sequence: each operation's effect is taken before the rest runs, and no effect depends on
the queue it was issued in. -/
theorem runIsTheFoldOfTheStep : Obligations.RunIsTheFoldOfTheStep := by
  intro l
  induction l with
  | nil => exact fun _ => rfl
  | cons x l ih =>
    intro s
    have hqueue : { effect s x with pending := [] } = effect s x := by rw [← effect_pending s x]
    rw [runInputs_cons, ih, List.foldl_cons, effect_with_pending s [] x, hqueue]

end Sys2Proof.Proofs
end

section
/-! SUPPORT. Frames that are ignored: a valid frame that no handler accepts is answered by one of the three not-applicable
rows of the table under 45_block_operations.md R163 (30_encoding.md R82). -/

namespace Sys2Proof.Proofs

open Sys2Proof Sys2Proof.Machine Sys2Proof.Safety Sys2Proof.Config Sys2Proof.Laws

/-- The outcome of a valid frame that no handler accepts changes the outputs only. Each of the five rows that are not UPDATED is
its own instance; the two UPDATED rows are shut out by the bits of an accepted frame. -/
theorem validOutcome_of_not_accepted {f : Frame} (hlegal : legalFrame f) (hgf : ¬acceptsGrainFlow f)
    (hhi : ¬acceptsHeaderInfo f) (s : State) :
    ∃ (k : ResKind) (h : BitVec 1), (k = .naPgn ∨ k = .naSource ∨ k = .naOpcode) ∧
      validOutcome f s = { s with out := .transaction ⟨k, h, 0⟩ (some (messageIn f)) } := by
  rw [acceptsGrainFlow_iff] at hgf
  rw [acceptsHeaderInfo_iff] at hhi
  simp only [validOutcome]
  split_ifs with hpgn hpgn0 hsrc hopc hsrc hopc
  · exact ⟨.naPgn, 0, .inl rfl, rfl⟩
  · exact ⟨.naSource, 0, .inr (.inl rfl), rfl⟩
  · exact ⟨.naOpcode, 0, .inr (.inr rfl), rfl⟩
  · exact absurd ⟨hlegal, hpgn0, not_not.mp hsrc, not_not.mp hopc⟩ hgf
  · exact ⟨.naSource, 1, .inr (.inl rfl), rfl⟩
  · exact ⟨.naOpcode, 1, .inr (.inr rfl), rfl⟩
  · have hpgn1 : f.id.extractLsb' 8 18 = 65535#18 := by_contra fun h => hpgn ⟨hpgn0, h⟩
    simp only [ne_eq, ← not_or, not_not] at hsrc
    exact absurd ⟨hlegal, hpgn1, hsrc, not_not.mp hopc⟩ hhi

/-- Settles O40: the transaction of a legal frame is the outcome of a valid frame, and one that no handler accepts is reported
as not applicable. -/
theorem ignoredFramesChangeNothing : Obligations.IgnoredFramesChangeNothing := by
  intro f s hlegal hgf hhi
  obtain ⟨k, h, hkind, hout⟩ := validOutcome_of_not_accepted hlegal hgf hhi s
  refine ⟨k, h, hkind, ?_⟩
  rw [exec_frame, processFrame_table, frameOutcome_of_legal hlegal, hout]

end Sys2Proof.Proofs
end

section
/-! SUPPORT. Illegal identifiers: the test is on the 32-bit input as a whole, and no part of a message is made of one that
fails it (40_identifier_decoder.md R99). -/

namespace Sys2Proof.Proofs

open Sys2Proof Sys2Proof.Machine Sys2Proof.Safety Sys2Proof.Config Sys2Proof.Laws

/-- The illegal identifiers are those of 2^29 and above: the bound of R99 is one past the largest legal identifier. -/
theorem idIllegal_iff (id : CanId) : idIllegal id = true ↔ 0x20000000 ≤ id.toNat := by
  rw [idIllegal, decide_eq_true_eq, BitVec.lt_def, show maxId.toNat = 0x1FFFFFFF from rfl, Nat.lt_iff_add_one_le]

/-- An illegal identifier has no triple. -/
theorem iddec_of_idIllegal {id : CanId} (h : idIllegal id = true) : iddec id = .error .invalidIdentifier :=
  if_pos h

/-- A frame with an illegal identifier is a violation, whatever its length and bytes (60_exceptions.md R182). -/
theorem processFrame_of_idIllegal {f : Frame} (h : idIllegal f.id = true) (t : DispatchTable) (s : State) :
    processFrame t f s = raiseViolation true (lenIllegal f.len) s := by
  rw [processFrame_eq, if_pos h]

/-- Settles O17: at 0x20000000 and above the identifier is illegal, so IDDEC fails and the frame's transaction is the taking of
a violation, which reports the identifier and neither makes a message nor writes the accumulator. -/
theorem identifierAboveTwentyNineBitsFails : Obligations.IdentifierAboveTwentyNineBitsFails := by
  intro f s hid
  have hillegal : idIllegal f.id = true := (idIllegal_iff f.id).mpr hid
  refine ⟨iddec_of_idIllegal hillegal, raiseViolation true (lenIllegal f.len) s, ?_, raiseViolation_acc .., ?_⟩
  · rw [exec_frame, processFrame_of_idIllegal hillegal]
  · rw [raiseViolation_out, if_pos rfl]

end Sys2Proof.Proofs
end

section
/-! SUPPORT. PACK: the payload is the number made by the bytes below the length, so each of them lies in its lane and the
lanes above are zero; a length above 8 makes no payload and no message (41_payload_assembler.md R105 to R109). -/

namespace Sys2Proof.Proofs

open Sys2Proof Sys2Proof.Machine Sys2Proof.Safety Sys2Proof.Config Sys2Proof.Laws

/-! ### The payload as a number -/

/-- PACK of a legal length is the read of the whole buffer. -/
theorem pack_of_le {len : Length} (h : len.toNat ≤ 8) (fb : FrameBuffer) : pack len fb = .ok (memRead len fb 0 8) := by
  rw [pack_eq, if_neg (Nat.not_lt.mpr h)]

/-- Zero bytes above a number's bytes add nothing to it. -/
theorem leNat_append_zeros (l : List Byte) (n : Nat) : leNat (l ++ List.replicate n 0) = leNat l := by
  induction l with
  | nil =>
    induction n with
    | zero => rfl
    | succ n ih => simpa [List.replicate_succ, leNat] using ih
  | cons b bs ih => rw [List.cons_append, leNat, leNat, ih]

/-- One byte of the number that bytes make. -/
theorem leNat_div_mod_byte (l : List Byte) (i : Nat) (h : i < l.length) :
    leNat l / 2 ^ (8 * i) % 2 ^ 8 = l[i].toNat := by
  rw [← leNat_drop, List.drop_eq_getElem_cons h, leNat, Nat.add_mul_mod_self_left, Nat.mod_eq_of_lt l[i].isLt]

/-- The payload is the number made by the bytes below the length (41_payload_assembler.md R105). -/
theorem payload_toNat (len : Length) (fb : FrameBuffer) :
    (memRead len fb 0 8).toNat = leNat ((bytesOf fb).take len.toNat) := by
  have hread : memRead len fb 0 8 = littleEndian (lanes len fb) := rfl
  rw [hread, littleEndian_toNat _ (show (lanes len fb).length ≤ 8 from Nat.le_refl 8), lanes_eq_take_append_zeros,
    leNat_append_zeros]

/-- So it is below 2^(8*len) (41_payload_assembler.md R107). -/
theorem payload_lt_two_pow (len : Length) (fb : FrameBuffer) : (memRead len fb 0 8).toNat < 2 ^ (8 * len.toNat) := by
  rw [payload_toNat]
  calc leNat ((bytesOf fb).take len.toNat)
      < 2 ^ (8 * ((bytesOf fb).take len.toNat).length) := leNat_lt _
    _ ≤ 2 ^ (8 * len.toNat) := Nat.pow_le_pow_right (by decide) (Nat.mul_le_mul_left 8 (List.length_take_le ..))

/-- A frame of length 0 has payload 0, whatever its buffer holds. -/
theorem payload_of_length_zero (fb : FrameBuffer) : memRead 0 fb 0 8 = 0 :=
  BitVec.eq_of_toNat_eq (Nat.lt_one_iff.mp (payload_lt_two_pow 0 fb))

/-- Settles O19: the payload is the number made by the bytes below the length, and the slice is its byte of index `i`. -/
theorem bytesLieLittleEndianInThePayload : Obligations.BytesLieLittleEndianInThePayload := by
  intro len fb i hlen hi
  refine ⟨_, pack_of_le hlen fb, ?_⟩
  have hbytes : (bytesOf fb).length = 8 := rfl
  have hi8 : i < (bytesOf fb).length := Nat.lt_of_lt_of_le hi hlen
  have htake : i < ((bytesOf fb).take len.toNat).length := by rw [List.length_take]; omega
  rw [List.getElem?_eq_getElem hi8, Option.some_inj]
  apply BitVec.eq_of_toNat_eq
  rw [slice_toNat, payload_toNat, leNat_div_mod_byte _ _ htake, List.getElem_take]

/-! ### The message of a legal frame -/

/-- Delivering a verdict shows the message, whichever verdict it is. -/
theorem deliver_out (v : Verdict) (msg : CanMessage) (s : State) :
    ∃ r, (deliver v msg s).out = .transaction r (some msg) := by
  cases v <;> exact ⟨_, rfl⟩

/-- An identifier whose top three bits are clear passes the test of R99. -/
theorem idIllegal_of_legalId {id : CanId} (h : legalId id) : idIllegal id = false := by
  rw [idIllegal_eq]
  exact decide_eq_false (not_not.mpr h)

/-- Of a legal frame the message is made and delivered (10_state.md R32). -/
theorem processFrame_of_legal {f : Frame} (h : legalFrame f) (t : DispatchTable) (s : State) :
    processFrame t f s = deliver (dispatch t (messageOf f)) (messageOf f) s := by
  obtain ⟨hid, hlen⟩ := h
  have hlenOk : lenIllegal f.len = false := by rw [lenIllegal_eq]; exact decide_eq_false (Nat.not_lt.mpr hlen)
  simp [processFrame_eq, idIllegal_of_legalId hid, hlenOk]

/-- Settles O21: the payload is below 2^(8*len), which at length 0 leaves 0 alone; that length is legal, so the message is
made and delivered. -/
theorem lanesAboveTheLengthAreZero : Obligations.LanesAboveTheLengthAreZero := by
  refine ⟨fun fb => ?_, fun f s hlen hid => ?_, fun len fb hlen => ?_⟩
  · rw [pack_of_le (show (0 : Length).toNat ≤ 8 by decide), payload_of_length_zero]
  · have hlegal : legalFrame f := ⟨hid, by simp [hlen]⟩
    obtain ⟨r, hout⟩ := deliver_out (dispatch table (messageOf f)) (messageOf f) s
    refine ⟨_, r, messageOf f, ?_, hout, ?_⟩
    · rw [exec_frame, processFrame_of_legal hlegal]
    · change memRead f.len f.bytes 0 8 = 0
      rw [hlen, payload_of_length_zero]
  · have hlt := payload_lt_two_pow len fb
    refine ⟨_, pack_of_le (Nat.le_of_lt hlen) fb, BitVec.eq_of_toNat_eq ?_, hlt⟩
    rw [BitVec.toNat_ushiftRight, Nat.shiftRight_eq_div_pow, Nat.div_eq_of_lt hlt]
    rfl

/-! ### Illegal lengths -/

/-- PACK of an illegal length fails, whatever the buffer holds. -/
theorem pack_of_eight_lt {len : Length} (h : 8 < len.toNat) (fb : FrameBuffer) : pack len fb = .error .frameTooLong := by
  rw [pack_eq, if_pos h]

/-- A frame with an illegal length is a violation, whatever its identifier and bytes (60_exceptions.md R182). -/
theorem processFrame_of_eight_lt {f : Frame} (h : 8 < f.len.toNat) (t : DispatchTable) (s : State) :
    processFrame t f s = raiseViolation (idIllegal f.id) true s := by
  have hlen : lenIllegal f.len = true := by rw [lenIllegal_eq]; exact decide_eq_true h
  rw [processFrame_eq, hlen]
  cases idIllegal f.id <;> rfl

/-- Settles O22: PACK fails before it reads, so the transaction is the taking of a violation in which the buffer has no part,
and the length is what it reports unless the identifier is illegal too. -/
theorem lengthAboveEightFails : Obligations.LengthAboveEightFails := by
  intro f fb s hlen
  refine ⟨pack_of_eight_lt hlen f.bytes, ?_, raiseViolation (idIllegal f.id) true s, _, ?_, raiseViolation_out .., ?_⟩
  · rw [exec_frame, exec_frame, processFrame_of_eight_lt hlen, processFrame_of_eight_lt (f := { f with bytes := fb }) hlen]
  · rw [exec_frame, processFrame_of_eight_lt hlen]
  · intro hid
    simp [idIllegal_of_legalId hid]

end Sys2Proof.Proofs
end

section
/-! SUPPORT. Lookup and dispatch: an entry is found by its key exactly, because a table's keys are pairwise different
(42_pgn_dispatcher.md R115, R120), and a PGN that is no key reaches no Signal Decoder (R119). -/

namespace Sys2Proof.Proofs

open Sys2Proof Sys2Proof.Machine Sys2Proof.Safety Sys2Proof.Config Sys2Proof.Laws

/-! ### Lookup -/

/-- The keys of a table the block may be built with are pairwise different (42_pgn_dispatcher.md R120). -/
theorem keys_nodup (t : DispatchTable) : (t.handlers.map Handler.key).Nodup := by
  have hwf := t.wf
  rw [tableWf, Bool.and_eq_true, decide_eq_true_eq] at hwf
  exact hwf.2

/-- Lookup finds nothing exactly when no entry has the key, repeated keys or not. -/
theorem lookupFrom_eq_none_iff (n : Nat) (hs : List Handler) (pgn : BitVec 32) :
    lookupFrom n hs pgn = none ↔ ∀ h ∈ hs, h.key.setWidth 32 ≠ pgn := by
  induction hs generalizing n with
  | nil => simp [lookupFrom]
  | cons h₀ hs ih =>
    rw [lookupFrom, List.forall_mem_cons]
    by_cases hkey : h₀.key.setWidth 32 = pgn
    · simp [hkey]
    · simp [hkey, ih]

/-- Behind an entry that has the PGN for its key stands no other: zero-extension identifies no two keys. -/
theorem key_ne_of_nodup_cons {h₀ h : Handler} {hs : List Handler} {pgn : BitVec 32}
    (hkeys : ((h₀ :: hs).map Handler.key).Nodup) (hkey : h₀.key.setWidth 32 = pgn) (hmem : h ∈ hs) :
    h.key.setWidth 32 ≠ pgn := by
  intro hpgn
  have hsame : h.key = h₀.key := (setWidth_pgn_eq_iff h₀.key h.key).mp (hkey.trans hpgn.symm)
  rw [List.map_cons, List.nodup_cons] at hkeys
  exact hkeys.1 (hsame ▸ List.mem_map_of_mem hmem)

/-- In a list with pairwise different keys, counted from `n`, lookup finds the entry that has the key, at its place. -/
theorem lookupFrom_eq_some_iff {hs : List Handler} (hkeys : (hs.map Handler.key).Nodup) (n k : Nat) (h : Handler)
    (pgn : BitVec 32) :
    lookupFrom n hs pgn = some (k, h) ↔ ∃ i, k = n + i ∧ hs[i]? = some h ∧ h.key.setWidth 32 = pgn := by
  induction hs generalizing n with
  | nil => simp [lookupFrom]
  | cons h₀ hs ih =>
    rw [lookupFrom]
    split
    next hkey =>
      constructor
      · rintro ⟨⟩
        exact ⟨0, rfl, rfl, hkey⟩
      · rintro ⟨_ | i, rfl, hi, hpgn⟩
        · cases hi
          rfl
        · exact absurd hpgn (key_ne_of_nodup_cons hkeys hkey (List.mem_of_getElem? hi))
    next hkey =>
      rw [ih (List.nodup_cons.mp hkeys).2]
      constructor
      · rintro ⟨i, rfl, hi, hpgn⟩
        exact ⟨i + 1, by omega, hi, hpgn⟩
      · rintro ⟨_ | i, rfl, hi, hpgn⟩
        · cases hi
          exact absurd hpgn hkey
        · exact ⟨i, by omega, hi, hpgn⟩

/-- Settles O27: a table's keys are pairwise different, so the first entry with the key is the one at its place; that none is
found needs no such condition. -/
theorem lookupIsAnExactMatch : Obligations.LookupIsAnExactMatch := by
  refine fun t pgn => ⟨fun k h => ?_, lookupFrom_eq_none_iff 0 t.handlers pgn⟩
  rw [lookup, lookupFrom_eq_some_iff (keys_nodup t)]
  simp

/-! ### Dispatch -/

/-- A message whose PGN is no key of the table is not decoded: no Signal Decoder is asked (42_pgn_dispatcher.md R117). -/
theorem dispatch_of_no_key {t : DispatchTable} {msg : CanMessage} (h : ∀ e ∈ t.handlers, e.key.setWidth 32 ≠ msg.pgn) :
    dispatch t msg = .naPgn := by
  have hnone : lookup t msg.pgn = none := (lookupFrom_eq_none_iff 0 t.handlers msg.pgn).mpr h
  rw [dispatch, hnone]

/-- Settles O29: the two entries as they are built, every named constant replaced by its value. -/
theorem theDispatchTable : Obligations.TheDispatchTable := rfl

/-- Settles O60: neither entry of the table has the PGN for its key, and the row only reports. -/
theorem unknownPgnIsIgnored : Obligations.UnknownPgnIsIgnored := by
  refine ⟨fun msg hgf hhi => dispatch_of_no_key fun e he => ?_, fun _ _ _ _ _ _ => rfl⟩
  rw [theDispatchTable, List.mem_pair] at he
  obtain rfl | rfl := he
  · exact Ne.symm hgf
  · exact Ne.symm hhi

end Sys2Proof.Proofs
end

section
/-! SUPPORT. The two Signal Decoders reached through dispatch, with what their verdicts do to the state, in the spec's own
numbers (43_signal_decoders.md R131, R137). -/

namespace Sys2Proof.Proofs

open Sys2Proof Sys2Proof.Machine Sys2Proof.Safety Sys2Proof.Config Sys2Proof.Laws

/-! ### The entry a message is dispatched to -/

/-- PGN 61184 is entry 0's key, whatever the grain-flow opcode (42_pgn_dispatcher.md R116). -/
theorem dispatch_tableFor_of_pgn_eq_61184 (opc : BitVec 16) {msg : CanMessage} (h : msg.pgn = 61184) :
    dispatch (tableFor opc) msg = signalDecode 0 (grainFlowHandler opc) msg := by
  have hgf : pgnGf.setWidth 32 = msg.pgn := h.symm
  rw [dispatch_tableFor, if_pos hgf]

/-- PGN 65535 is entry 1's key, and not entry 0's (42_pgn_dispatcher.md R116). -/
theorem dispatch_tableFor_of_pgn_eq_65535 (opc : BitVec 16) {msg : CanMessage} (h : msg.pgn = 65535) :
    dispatch (tableFor opc) msg = signalDecode 1 headerInfoHandler msg := by
  have hgf : pgnGf.setWidth 32 ≠ msg.pgn := by rw [h]; decide
  have hhi : pgnHi.setWidth 32 = msg.pgn := h.symm
  rw [dispatch_tableFor, if_neg hgf, if_pos hhi]

/-! ### What delivering an update writes -/

/-- A grain-flow update writes the two grain fields and no other, and is reported with their mask. -/
theorem deliver_gfUpdate (fl mo : BitVec 16) (msg : CanMessage) (s : State) :
    deliver (.update 0 (gfUpdate fl mo)) msg s =
      { s with
        acc := { s.acc with grainFlow := fl, grainMoisture := mo }
        out := .transaction ⟨.updated, 0, 0b00011⟩ (some msg) } := by
  change mergeUpdate 0 (gfUpdate fl mo) msg s = _
  rw [mergeUpdate, apply_gfUpdate, mask_gfUpdate]

/-- Settles O30: the message reaches entry 0, whose source test comes before its opcode test, and each of the three verdicts is
delivered. -/
theorem grainFlowDecoder : Obligations.GrainFlowDecoder := by
  refine ⟨rfl, fun opc msg s hpgn => ?_⟩
  rw [dispatch_tableFor_of_pgn_eq_61184 opc hpgn, signalDecode_grainFlow, show srcGf = 211 from rfl]
  by_cases hsrc : msg.source = 211
  · rw [if_pos hsrc, if_neg (not_not.mpr hsrc)]
    by_cases hopc : msg.payload.extractLsb' 0 16 = opc
    · rw [if_pos hopc, if_neg (not_not.mpr hopc), deliver_gfUpdate]
    · rw [if_neg hopc, if_pos hopc]
      rfl
  · rw [if_neg hsrc, if_pos hsrc]
    rfl

/-- Settles O31: the message reaches entry 1, and its verdict delivered is `deliver_signalDecode_headerInfo`. -/
theorem headerInfoDecoder : Obligations.HeaderInfoDecoder := by
  intro msg s hpgn
  rw [table, dispatch_tableFor_of_pgn_eq_65535 opcGf hpgn, deliver_signalDecode_headerInfo]
  have hsrc : (msg.source ≠ 211 ∧ msg.source ≠ 234 ∧ msg.source ≠ 242) ↔
      ¬(msg.source = 211 ∨ msg.source = 234 ∨ msg.source = 242) := by rw [not_or, not_or]
  exact if_congr hsrc rfl rfl

end Sys2Proof.Proofs
end

section
/-! SUPPORT. The Telemetry Accumulator: a merge field by field, the replay of a frame, the independence of the two kinds of
update, and the last accepted frame of a sequence (44_telemetry_accumulator.md R150, R152, R155, R156). -/

namespace Sys2Proof.Proofs

open Sys2Proof Sys2Proof.Machine Sys2Proof.Safety Sys2Proof.Config Sys2Proof.Laws

/-! ### The merge -/

/-- What a register holds after a merge, by whether the update carries its field. -/
theorem getD_by_isSome {α : Type} (o : Option α) (old : α) :
    if o.isSome then o = some (o.getD old) else o.getD old = old := by
  cases o with
  | none => rfl
  | some _ => rfl

/-- Settles O32: a mask bit says whether its field is carried, and each field merges by itself. -/
theorem applyMergesByTheMask : Obligations.ApplyMergesByTheMask := by
  intro acc u
  rw [mask_bit0, mask_bit1, mask_bit2, mask_bit3, mask_bit4]
  exact ⟨getD_by_isSome .., getD_by_isSome .., getD_by_isSome .., getD_by_isSome .., getD_by_isSome ..,
    fun h msg s => ⟨mergeUpdate_acc s h u msg, mergeUpdate_status s h u msg⟩⟩

/-! ### An offered frame -/

/-- The effect of an offered frame is the frame's outcome. -/
theorem effect_offer (s : State) (f : Frame) : effect s (offer f) = frameOutcome f { s with pending := [] } := by
  rw [← processFrame_table]
  apply effect_eq_of_step
  change exec (decodePins ⟨false, true, f⟩) { s with pending := [] } = _
  rw [decodePins_eq]
  rfl

/-- The only operation that offers a frame which the block takes is `offer` of it. -/
theorem eq_offer_of_offeredFrame {x : Input} {f : Frame} (h : offeredFrame x = some f) : x = offer f := by
  cases x with
  | snap => cases h
  | cycle p =>
    obtain ⟨rst, valid, frame⟩ := p
    rw [offeredFrame] at h
    split at h
    next hpins =>
      obtain ⟨rfl, rfl⟩ := hpins
      cases h
      rfl
    next => cases h

/-- Nothing is issued after the effect of an operation. -/
theorem effect_with_pending_nil (s : State) (x : Input) : { effect s x with pending := [] } = effect s x := by
  rw [← effect_pending s x]

/-! ### Replay -/

/-- What a valid frame writes is cut from the frame alone, so the second time it writes what is there. -/
theorem validOutcome_idem (f : Frame) (s : State) : validOutcome f (validOutcome f s) = validOutcome f s := by
  simp only [validOutcome]
  split_ifs <;> rfl

/-- A violation taken again finds its flags set. -/
theorem raiseViolation_idem (eId eLen : Bool) (s : State) :
    raiseViolation eId eLen (raiseViolation eId eLen s) = raiseViolation eId eLen s := by
  simp [raiseViolation, report]

/-- A frame's outcome in the state it has left is that state: a violation by its flags, a valid frame by its fields. -/
theorem frameOutcome_idem (f : Frame) (s : State) : frameOutcome f (frameOutcome f s) = frameOutcome f s := by
  by_cases hlen : 8 < f.len.toNat
  · simp only [← processFrame_table, processFrame_of_eight_lt hlen, raiseViolation_idem]
  · cases hid : idIllegal f.id with
    | true => simp only [← processFrame_table, processFrame_of_idIllegal hid, raiseViolation_idem]
    | false =>
      rw [idIllegal_eq, decide_eq_false_iff_not, not_not] at hid
      have hlegal : legalFrame f := ⟨hid, Nat.not_lt.mp hlen⟩
      simp only [frameOutcome_of_legal hlegal, validOutcome_idem]

/-- Settles O47: the second offer meets the state that the first has left, where the frame's outcome is that state again. -/
theorem replayIsIdempotent : Obligations.ReplayIsIdempotent := by
  intro f s
  have hreplay : effect (effect s (offer f)) (offer f) = effect s (offer f) := by
    rw [effect_offer (effect s (offer f)), effect_with_pending_nil, effect_offer s, frameOutcome_idem]
  rw [runInputs_cons, runInputs_cons, runInputs_cons, hreplay]

/-! ### The two kinds of update -/

/-- A legal frame writes no flag. -/
theorem frameOutcome_status_of_legal {f : Frame} (h : legalFrame f) (s : State) : (frameOutcome f s).status = s.status := by
  rw [← processFrame_table, processFrame_of_legal h, deliver_status]

/-- The grain fields of an offered frame that handler 0 accepts, beside the header fields as they were. -/
theorem effect_offer_acc_of_acceptsGrainFlow {f : Frame} (h : acceptsGrainFlow f) (s : State) :
    (effect s (offer f)).acc = { s.acc with
      grainFlow := (payloadOf f).extractLsb' 16 16, grainMoisture := (payloadOf f).extractLsb' 32 16 } := by
  rw [effect_offer, frameOutcome_acc_of_acceptsGrainFlow h]

/-- The header fields of an offered frame that handler 1 accepts, beside the grain fields as they were. -/
theorem effect_offer_acc_of_acceptsHeaderInfo {f : Frame} (h : acceptsHeaderInfo f) (s : State) :
    (effect s (offer f)).acc = { s.acc with
      headerWidth := (payloadOf f).extractLsb' 8 16
      headerRows := (payloadOf f).extractLsb' 48 8
      rowSpacing := (payloadOf f).extractLsb' 56 8 } := by
  rw [effect_offer, frameOutcome_acc_of_acceptsHeaderInfo h]

/-- An offered legal frame writes no flag. -/
theorem effect_offer_status_of_legal {f : Frame} (h : legalFrame f) (s : State) : (effect s (offer f)).status = s.status := by
  rw [effect_offer, frameOutcome_status_of_legal h]

/-- Settles O48: each frame writes its own fields with values that do not depend on the state, and neither writes a flag. -/
theorem theTwoKindsOfUpdateAreIndependent : Obligations.TheTwoKindsOfUpdateAreIndependent := by
  refine ⟨by decide, fun g h s hg hh => ?_⟩
  have hgLegal : legalFrame g := ((acceptsGrainFlow_iff g).mp hg).1
  have hhLegal : legalFrame h := ((acceptsHeaderInfo_iff h).mp hh).1
  refine ⟨_, _, _, _, runIsTheFoldOfTheStep _ s, runIsTheFoldOfTheStep _ s, runIsTheFoldOfTheStep _ s,
    runIsTheFoldOfTheStep _ s, ?_⟩
  simp only [List.foldl_cons, List.foldl_nil, effect_offer_acc_of_acceptsGrainFlow hg,
    effect_offer_acc_of_acceptsHeaderInfo hh, effect_offer_status_of_legal hgLegal, effect_offer_status_of_legal hhLegal,
    and_self]

/-! ### The last accepted frame -/

/-- An operation issued alone is the next one. -/
theorem nextInput_alone (x : Input) (s : State) : nextInput { s with pending := [x] } = x := rfl

/-- An operation that neither resets nor offers a frame writes no accumulator field (10_state.md R25). -/
theorem effect_acc_of_not_offered {x : Input} (hreset : isReset x = false) (hnone : offeredFrame x = none) (s : State) :
    (effect s x).acc = s.acc := by
  have h := onlyResetAndAcceptedFramesWriteTheAccumulator _ _ (step_alone x s)
  rw [nextInput_alone, hreset, hnone] at h
  exact h

/-- A reset clears the accumulator (45_block_operations.md R165). -/
theorem effect_acc_of_isReset {x : Input} (hreset : isReset x = true) (s : State) :
    (effect s x).acc = ⟨0, 0, 0, 0, 0⟩ := by
  have h := onlyResetAndAcceptedFramesWriteTheAccumulator _ _ (step_alone x s)
  rw [nextInput_alone, hreset] at h
  exact h

/-- The last frame offered in a sequence that passes a test: `lastGrainFlow` and `lastHeaderInfo` for the test of a
handler. -/
def lastOffered (accepts : Frame → Prop) [DecidablePred accepts] (l : List Input) : Option Frame :=
  ((l.filterMap offeredFrame).filter fun f => decide (accepts f)).getLast?

theorem lastGrainFlow_eq_lastOffered (l : List Input) :
    lastGrainFlow l = lastOffered acceptsGrainFlow l := rfl

theorem lastHeaderInfo_eq_lastOffered (l : List Input) :
    lastHeaderInfo l = lastOffered acceptsHeaderInfo l := rfl

/-- One operation more: its own frame is the last if it offers one that passes the test. -/
theorem lastOffered_concat (accepts : Frame → Prop) [DecidablePred accepts] (l : List Input) (x : Input) :
    lastOffered accepts (l ++ [x]) = ((offeredFrame x).filter fun f => decide (accepts f)).or (lastOffered accepts l) := by
  rw [lastOffered, List.filterMap_append, List.filter_append, List.getLast?_append, lastOffered]
  congr 1
  cases h : offeredFrame x with
  | none => simp [h]
  | some f => by_cases ha : accepts f <;> simp [h, ha, Option.filter_some]

/-- A part of the accumulator, seen through `part`, is written by the frames that pass a test and by no other, each writing a
value of its own. -/
def WrittenBy {α : Type} (part : HarvestData → α) (accepts : Frame → Prop) [DecidablePred accepts]
    (value : Frame → α) : Prop :=
  ∀ (f : Frame) (s : State), part (frameOutcome f s).acc = if accepts f then value f else part s.acc

section
variable {α : Type} {part : HarvestData → α} {accepts : Frame → Prop} [DecidablePred accepts] {value : Frame → α}

/-- Such a part after one operation. -/
theorem WrittenBy.part_effect (hw : WrittenBy part accepts value) {x : Input} (hreset : isReset x = false) (s : State) :
    part (effect s x).acc = ((offeredFrame x).filter fun f => decide (accepts f)).elim (part s.acc) value := by
  cases h : offeredFrame x with
  | none => rw [effect_acc_of_not_offered hreset h, Option.filter_none, Option.elim_none]
  | some f =>
    rw [eq_offer_of_offeredFrame h, effect_offer, hw]
    by_cases ha : accepts f <;> simp [ha, Option.filter_some]

/-- Such a part after a sequence holds the value of the last frame that passes the test, or what it held before. -/
theorem WrittenBy.part_foldl_effect (hw : WrittenBy part accepts value) (l : List Input) (s : State)
    (hl : ∀ x ∈ l, isReset x = false) :
    part (l.foldl effect s).acc = (lastOffered accepts l).elim (part s.acc) value := by
  induction l using List.reverseRecOn with
  | nil => rfl
  | append_singleton l x ih =>
    have hx : isReset x = false := hl x (by simp)
    have hinit := ih fun y hy => hl y (List.mem_append_left _ hy)
    rw [List.foldl_concat, hw.part_effect hx, hinit, lastOffered_concat]
    cases (offeredFrame x).filter fun f => decide (accepts f) <;> rfl

end

/-- The grain fields of the accumulator. -/
def grainFields (d : HarvestData) : BitVec 16 × BitVec 16 := (d.grainFlow, d.grainMoisture)

/-- The header fields of the accumulator. -/
def headerFields (d : HarvestData) : BitVec 16 × BitVec 8 × BitVec 8 := (d.headerWidth, d.headerRows, d.rowSpacing)

/-- The grain fields a frame carries (30_encoding.md R74). -/
def grainFieldsOf (f : Frame) : BitVec 16 × BitVec 16 :=
  ((payloadOf f).extractLsb' 16 16, (payloadOf f).extractLsb' 32 16)

/-- The header fields a frame carries (30_encoding.md R75). -/
def headerFieldsOf (f : Frame) : BitVec 16 × BitVec 8 × BitVec 8 :=
  ((payloadOf f).extractLsb' 8 16, (payloadOf f).extractLsb' 48 8, (payloadOf f).extractLsb' 56 8)

/-- The grain fields are written by the frames that handler 0 accepts. -/
theorem grainFields_writtenBy : WrittenBy grainFields acceptsGrainFlow grainFieldsOf := by
  intro f s
  by_cases hgf : acceptsGrainFlow f
  · rw [if_pos hgf, frameOutcome_acc_of_acceptsGrainFlow hgf]
    rfl
  · rw [if_neg hgf]
    by_cases hhi : acceptsHeaderInfo f
    · rw [frameOutcome_acc_of_acceptsHeaderInfo hhi]
      rfl
    · rw [frameOutcome_acc_of_not_accepted hgf hhi]

/-- The header fields are written by the frames that handler 1 accepts. -/
theorem headerFields_writtenBy : WrittenBy headerFields acceptsHeaderInfo headerFieldsOf := by
  intro f s
  by_cases hhi : acceptsHeaderInfo f
  · rw [if_pos hhi, frameOutcome_acc_of_acceptsHeaderInfo hhi]
    rfl
  · rw [if_neg hhi]
    by_cases hgf : acceptsGrainFlow f
    · rw [frameOutcome_acc_of_acceptsGrainFlow hgf]
      rfl
    · rw [frameOutcome_acc_of_not_accepted hgf hhi]

/-- A run without reset: both parts of the accumulator by their last accepted frames (44_telemetry_accumulator.md R152). -/
theorem exists_runInputs_of_no_reset (l : List Input) (s : State) (hl : ∀ x ∈ l, isReset x = false) :
    ∃ t, runInputs l s = .next t ∧
      grainFields t.acc = (lastGrainFlow l).elim (grainFields s.acc) grainFieldsOf ∧
      headerFields t.acc = (lastHeaderInfo l).elim (headerFields s.acc) headerFieldsOf :=
  ⟨_, runIsTheFoldOfTheStep l s, grainFields_writtenBy.part_foldl_effect l _ hl,
    headerFields_writtenBy.part_foldl_effect l _ hl⟩

/-- Settles O50: by induction on the sequence a part of the accumulator holds what the last frame that writes it carried; where
there is none after a reset, that is what the reset left. -/
theorem lastAcceptedFrameWins : Obligations.LastAcceptedFrameWins := by
  refine ⟨fun l s hl => ?_, fun x l s hx hl => ?_⟩
  · obtain ⟨t, hrun, hgrain, hheader⟩ := exists_runInputs_of_no_reset l s hl
    refine ⟨t, hrun, ?_, ?_⟩
    · cases h : lastGrainFlow l <;> simpa [h, grainFields, grainFieldsOf] using hgrain
    · cases h : lastHeaderInfo l <;> simpa [h, headerFields, headerFieldsOf] using hheader
  · obtain ⟨t, hrun, hgrain, hheader⟩ := exists_runInputs_of_no_reset l (effect s x) hl
    rw [effect_acc_of_isReset hx] at hgrain hheader
    refine ⟨t, by rw [runInputs_cons, hrun], fun h => ?_, fun h => ?_⟩
    · simpa [h, grainFields] using hgrain
    · simpa [h, headerFields] using hheader

end Sys2Proof.Proofs
end

section
/-! SUPPORT. After a violation: it adds flags and replaces the last outputs, and no later operation looks at either, but for a
snapshot, which shows the flags (60_exceptions.md R181). -/

namespace Sys2Proof.Proofs

open Sys2Proof Sys2Proof.Machine Sys2Proof.Safety Sys2Proof.Config Sys2Proof.Laws

/-! ### Added flags -/

/-- The state with flags of `STATUS` added. -/
def addFlags (st : BitVec 2) (s : State) : State := { s with status := s.status ||| st }

/-- A violation adds flags and reports; it does nothing else. -/
theorem raiseViolation_eq_addFlags (eId eLen : Bool) (s : State) :
    raiseViolation eId eLen s = { addFlags (statusWord eLen eId) s with
      out := .transaction ⟨if eId then .errInvalidIdentifier else .errFrameTooLong, 0, 0⟩ none } := rfl

/-- Taking a violation is the same with flags added before: flags are set by a disjunction, in whatever order. -/
theorem raiseViolation_addFlags (eId eLen : Bool) (st : BitVec 2) (o : Output) (s : State) :
    raiseViolation eId eLen { addFlags st s with out := o } = addFlags st (raiseViolation eId eLen s) := by
  simp only [raiseViolation_eq_addFlags, addFlags, BitVec.or_assoc, BitVec.or_comm st]

/-- Delivering a verdict looks at no flag and no earlier output. -/
theorem deliver_addFlags (v : Verdict) (msg : CanMessage) (st : BitVec 2) (o : Output) (s : State) :
    deliver v msg { addFlags st s with out := o } = addFlags st (deliver v msg s) := by
  cases v <;> rfl

/-- A frame does the same with flags added before and after other outputs. -/
theorem processFrame_addFlags (t : DispatchTable) (f : Frame) (st : BitVec 2) (o : Output) (s : State) :
    processFrame t f { addFlags st s with out := o } = addFlags st (processFrame t f s) := by
  rw [processFrame_eq, processFrame_eq]
  split
  · exact raiseViolation_addFlags ..
  · split
    · exact raiseViolation_addFlags ..
    · exact deliver_addFlags ..

/-! ### Operations by their effect -/

/-- A snapshot samples the registers and the flags (45_block_operations.md R166). -/
theorem effect_snap (s : State) : effect s .snap = readSnapshot { s with pending := [] } := rfl

/-- A cycle resets, takes its frame or idles (45_block_operations.md R161, R164, R165). -/
theorem effect_cycle (p : Pins) (s : State) :
    effect s (.cycle p) =
      if p.rst then State.reset
      else if p.frameValid then processFrame table p.frame { s with pending := [] }
      else reportEmpty { s with pending := [] } := by
  apply effect_eq_of_step
  change exec (decodePins p) { s with pending := [] } = _
  rw [decodePins_eq]
  split_ifs <;> rfl

/-- A reset forgets the state (45_block_operations.md R165). -/
theorem effect_of_isReset {x : Input} (hreset : isReset x = true) (s : State) : effect s x = State.reset := by
  cases x with
  | snap => cases hreset
  | cycle p => exact (effect_cycle p s).trans (if_pos hreset)

/-- An idle cycle or an offered frame does the same with flags added before and after other outputs. -/
theorem effect_addFlags {x : Input} (hreset : isReset x = false) (hsnap : x ≠ .snap) (st : BitVec 2) (o : Output)
    (s : State) : effect { addFlags st s with out := o } x = addFlags st (effect s x) := by
  cases x with
  | snap => exact absurd rfl hsnap
  | cycle p =>
    have hrst : ¬p.rst = true := Bool.eq_false_iff.mp hreset
    rw [effect_cycle, effect_cycle, if_neg hrst, if_neg hrst]
    split
    · exact processFrame_addFlags table p.frame st o { s with pending := [] }
    · rfl

/-! ### The violation and the operation after it -/

/-- A frame that is not legal is a violation (60_exceptions.md R182). -/
theorem processFrame_of_not_legal {f : Frame} (h : ¬legalFrame f) (t : DispatchTable) (s : State) :
    ∃ eId eLen, processFrame t f s = raiseViolation eId eLen s := by
  by_cases hlen : 8 < f.len.toNat
  · exact ⟨_, _, processFrame_of_eight_lt hlen t s⟩
  · have hid : idIllegal f.id = true := by
      rw [idIllegal_eq, decide_eq_true_eq]
      exact fun hid => h ⟨hid, Nat.not_lt.mp hlen⟩
    exact ⟨_, _, processFrame_of_idIllegal hid t s⟩

/-- An offered frame that violates adds flags and replaces the last outputs. -/
theorem effect_offer_of_not_legal {f : Frame} (h : ¬legalFrame f) (s : State) :
    ∃ st o, effect s (offer f) = { addFlags st { s with pending := [] } with out := o } := by
  obtain ⟨eId, eLen, hviolation⟩ := processFrame_of_not_legal h table { s with pending := [] }
  exact ⟨_, _, by rw [effect_offer, ← processFrame_table, hviolation, raiseViolation_eq_addFlags]⟩

/-- Settles O46: the violation leaves a state that differs in added flags and in the last outputs only; a snapshot shows the
flags, a reset forgets them, and every other operation leaves them beside what it does without them. -/
theorem violationsDoNotDisturbLaterOperations : Obligations.ViolationsDoNotDisturbLaterOperations := by
  intro f x s hf
  obtain ⟨st, o, hviolation⟩ := effect_offer_of_not_legal hf { s with pending := [] }
  refine ⟨_, _, runIsTheFoldOfTheStep _ s, runIsTheFoldOfTheStep _ s, ?_⟩
  simp only [List.foldl_cons, List.foldl_nil, hviolation, effect_pending, true_and]
  by_cases hsnap : x = .snap
  · subst hsnap
    rw [effect_snap, effect_snap]
    exact ⟨rfl, nofun, fun _ => ⟨st, rfl⟩, fun _ => ⟨rfl, rfl⟩, fun h => absurd rfl h⟩
  · cases hreset : isReset x with
    | true =>
      rw [effect_of_isReset hreset, effect_of_isReset hreset]
      exact ⟨rfl, fun _ => rfl, nofun, fun h => absurd h hsnap, fun _ => rfl⟩
    | false =>
      rw [effect_addFlags hreset hsnap]
      exact ⟨rfl, nofun, fun _ => ⟨st, rfl⟩, fun h => absurd h hsnap, fun _ => rfl⟩

end Sys2Proof.Proofs
end

section
/-! SUPPORT. The decoder beside the encoder: an instruction is read back from its word and a word from its instruction, and
every decoded instruction is well formed (30_encoding.md R77 to R79). -/

namespace Sys2Proof.Proofs

open Sys2Proof Sys2Proof.Machine Sys2Proof.Safety Sys2Proof.Config Sys2Proof.Laws

/-! ### Stage 1 in the vocabulary of `Instr.wf`: which row fits the identifier or the length -/

/-- An illegal identifier is one that an INVALID_ID row fits. -/
theorem idIllegal_eq_rows (id : CanId) :
    idIllegal id = (idFits rowIdB31 id || (idFits rowIdB30 id || idFits rowIdB29 id)) := by
  rw [idIllegal_bits, idFits_rowIdB31, idFits_rowIdB30, idFits_rowIdB29, Bool.or_assoc]

/-- An illegal length is one that a FRAME_TOO_LONG row fits. -/
theorem lenIllegal_eq_rows (len : Length) : lenIllegal len =
    (lenFits rowLenB7 len || (lenFits rowLenB6 len || (lenFits rowLenB5 len || (lenFits rowLenB4 len ||
      (lenFits rowLenB3b2 len || (lenFits rowLenB3b1 len || lenFits rowLenB3b0 len)))))) := by
  simp only [lenIllegal_bits, lenFits_rowLenB7, lenFits_rowLenB6, lenFits_rowLenB5, lenFits_rowLenB4, lenFits_rowLenB3b2,
    lenFits_rowLenB3b1, lenFits_rowLenB3b0, Bool.and_or_distrib_left, Bool.or_assoc]

/-- Two rows that fit one after the other, taken together before what comes after them. -/
theorem ite_else_ite {α : Type} (a b : Bool) (x y z : α) :
    (if a then x else if b then y else z) = if a || b then (if a then x else y) else z := by
  cases a <;> rfl

/-- Stage 1: the identifier's rows, then the length's, then VALID; among the rows of each the first that fits decides. -/
theorem decodeRaw_eq_rows (len : Length) (id : CanId) (fb : FrameBuffer) (ts : Timestamp) :
    decodeRaw (rawWord len id) fb ts =
      if idIllegal id then
        if idFits rowIdB31 id then .invalidIdB31 id len
        else if idFits rowIdB30 id then .invalidIdB30 id len
        else .invalidIdB29 id len
      else if lenIllegal len then
        if lenFits rowLenB7 len then .frameTooLongB7 id len
        else if lenFits rowLenB6 len then .frameTooLongB6 id len
        else if lenFits rowLenB5 len then .frameTooLongB5 id len
        else if lenFits rowLenB4 len then .frameTooLongB4 id len
        else if lenFits rowLenB3b2 len then .frameTooLongB3b2 id len
        else if lenFits rowLenB3b1 len then .frameTooLongB3b1 id len
        else .frameTooLongB3b0 id len
      else .valid { id := id, len := len, bytes := fb, ts := ts } := by
  rw [decodeRaw_rawWord, ← lenFits_rowLenB3b0, ← lenFits_rowLenB3b1, ← lenFits_rowLenB3b2, ← lenFits_rowLenB4,
    ← lenFits_rowLenB5, ← lenFits_rowLenB6, ← lenFits_rowLenB7, ← idFits_rowIdB29, ← idFits_rowIdB30, ← idFits_rowIdB31,
    ite_else_ite (lenFits rowLenB3b1 len), ite_else_ite (lenFits rowLenB3b2 len), ite_else_ite (lenFits rowLenB4 len),
    ite_else_ite (lenFits rowLenB5 len), ite_else_ite (lenFits rowLenB6 len), ite_else_ite (lenFits rowLenB7 len),
    ite_else_ite (idFits rowIdB30 id), ite_else_ite (idFits rowIdB31 id), idIllegal_eq_rows, lenIllegal_eq_rows]

/-! ### Words and instructions, one from the other -/

/-- Settles O11. A control word is computed. In stage 1 an instruction's well-formedness says that no earlier row fits its word
and its own does; in stage 2 the rows test PGN, source and opcode, which the encoder has put into the word. -/
theorem decodeOfEncodeIsTheInstruction : Obligations.DecodeOfEncodeIsTheInstruction := by
  intro i hi
  obtain ⟨hpgn, hs21, hs31, hs32⟩ := table_constants_differ
  cases i with
  | reset | idle | frame f => rfl
  | invalidIdB31 id len | invalidIdB30 id len | invalidIdB29 id len
  | frameTooLongB7 id len | frameTooLongB6 id len | frameTooLongB5 id len | frameTooLongB4 id len
  | frameTooLongB3b2 id len | frameTooLongB3b1 id len | frameTooLongB3b0 id len | valid f =>
    simp only [Instr.wf, idIllegal_eq_rows, lenIllegal_eq_rows, lenHighClear, Bool.and_eq_true, Bool.not_eq_true',
      Bool.or_eq_false_iff] at hi
    simp only [encode, decode, decodeRaw_eq_rows, idIllegal_eq_rows, lenIllegal_eq_rows, hi, Bool.true_or,
      Bool.or_false, Bool.or_true, Bool.false_eq_true, ↓reduceIte]
  | grainflow pr fl mo ig ts =>
    simp [encode, decode, decodeFw_fwWord, gfPayload_slices]
  | gfNaOpcode pr p ts | gfNaSource pr src p ts | ignore pr pgn src p ts =>
    simp [Instr.wf] at hi
    simp [encode, decode, decodeFw_fwWord, hi]
  | headerinfoS211 pr wd ig ro sp ts | headerinfoS234 pr wd ig ro sp ts | headerinfoS242 pr wd ig ro sp ts =>
    simp [encode, decode, decodeFw_fwWord, hiPayload_slices, hpgn, hs21, hs31, hs32]
  | hiNaOpcodeS211 pr p ts | hiNaOpcodeS234 pr p ts | hiNaOpcodeS242 pr p ts | hiNaSource pr src p ts =>
    simp [Instr.wf, notHiSource] at hi
    simp [encode, decode, decodeFw_fwWord, hi, hpgn, hs21, hs31, hs32]

/-- Settles O12: each row of stage 2 keeps the fields it does not test and the encoder puts back those it does; every row of
stage 1 keeps both fields. -/
theorem encodeOfDecodeIsTheWord : Obligations.EncodeOfDecodeIsTheWord := by
  refine ⟨fun w ts => ?_, fun w fb ts => ?_⟩
  · rw [← fwWord_fields w, decodeFw_fwWord]
    split_ifs <;> simp_all [encode, gfPayload_of_slices, hiPayload_of_slices]
  · rw [← rawWord_fields w, decodeRaw_eq_rows]
    split_ifs <;> exact ⟨_, _, rfl⟩

/-- A word of stage 1 decodes to a well-formed instruction. -/
theorem wf_decodeRaw (w : BitVec 40) (fb : FrameBuffer) (ts : Timestamp) : (decodeRaw w fb ts).wf = true := by
  rw [← rawWord_fields w, decodeRaw_eq_rows]
  split_ifs <;> simp_all only [Instr.wf, idIllegal_eq_rows, lenIllegal_eq_rows, lenHighClear, Bool.not_eq_true,
    Bool.false_or, Bool.not_false, Bool.true_and]

/-- A word of stage 2 decodes to a well-formed instruction. -/
theorem wf_decodeFw (w : BitVec 93) (ts : Timestamp) : (decodeFw w ts).wf = true := by
  rw [← fwWord_fields w, decodeFw_fwWord]
  split_ifs <;> simp_all [Instr.wf, notHiSource]

/-- Settles O13, stage by stage. -/
theorem decodedInstructionsAreWellFormed : Obligations.DecodedInstructionsAreWellFormed := by
  intro c
  cases c with
  | ctl w f =>
    rw [decode, decodeCtl]
    split_ifs <;> rfl
  | raw w fb ts => exact wf_decodeRaw w fb ts
  | fw w ts => exact wf_decodeFw w ts

end Sys2Proof.Proofs
end

section
/-! SUPPORT. The rows of stages 1 and 2 beside the pipeline: running what a word decodes to is a FRAME transaction of the frame
that carries the word (30_encoding.md R78, R79; 45_block_operations.md R161). -/

namespace Sys2Proof.Proofs

open Sys2Proof Sys2Proof.Machine Sys2Proof.Safety Sys2Proof.Config Sys2Proof.Laws

/-! ### Stage 2 -/

/-- The GRAINFLOW row that a payload decodes to shows that payload. -/
theorem exec_grainflow_of_slices (pr : Priority) {p : Payload} (h : p.extractLsb' 0 16 = opcGf) (ts : Timestamp)
    (s : State) :
    exec (.grainflow pr (p.extractLsb' 16 16) (p.extractLsb' 32 16) (p.extractLsb' 48 16) ts) s =
      .next (mergeUpdate gfHandler (gfUpdate (p.extractLsb' 16 16) (p.extractLsb' 32 16)) (gfMessage pr srcGf p ts) s) := by
  rw [exec, execGrainflow, gfPayload_of_slices p h]

/-- The HEADERINFO row of a source that a payload decodes to shows that payload. -/
theorem acceptHeaderInfo_of_slices (pr : Priority) (src : SourceAddr) {p : Payload} (h : p.extractLsb' 0 8 = opcHi)
    (ts : Timestamp) (s : State) :
    acceptHeaderInfo pr src (p.extractLsb' 8 16) (p.extractLsb' 24 24) (p.extractLsb' 48 8) (p.extractLsb' 56 8) ts s =
      mergeUpdate hiHandler (hiUpdate (p.extractLsb' 8 16) (p.extractLsb' 48 8) (p.extractLsb' 56 8))
        (hiMessage pr src p ts) s := by
  rw [acceptHeaderInfo, hiPayload_of_slices p h]

/-- The message of a frame word: what its fields compose (10_state.md R31). -/
def fwMessage (w : BitVec 93) (ts : Timestamp) : CanMessage where
  pgn := (fwPgn w).setWidth 32
  source := fwSource w
  priority := fwPriority w
  payload := fwPayload w
  timestamp := ts

/-- The row that stage 2 picks for a word does what dispatching the word's message does: the rows test PGN, source and opcode in
the order in which dispatch and the Signal Decoders do. -/
theorem exec_decodeFw (w : BitVec 93) (ts : Timestamp) (s : State) :
    exec (decodeFw w ts) s = .next (deliver (dispatch table (fwMessage w ts)) (fwMessage w ts) s) := by
  obtain ⟨hpgn, hs21, hs31, hs32⟩ := table_constants_differ
  rw [← fwWord_fields w, decodeFw_fwWord, table, dispatch_tableFor, signalDecode_grainFlow, signalDecode_headerInfo]
  generalize fwPriority w = pr, fwPgn w = pgn, fwSource w = src, fwPayload w = p
  simp only [fwMessage, fwPriority_fwWord, fwPgn_fwWord, fwSource_fwWord, fwPayload_fwWord, setWidth_pgn_eq_iff]
  by_cases hgf : pgn = pgnGf
  · subst hgf
    by_cases hsrc : src = srcGf
    · subst hsrc
      by_cases hopc : p.extractLsb' 0 16 = opcGf
      · simp only [hopc, ↓reduceIte]
        exact exec_grainflow_of_slices pr hopc ts s
      · simp only [hopc, ↓reduceIte]
        rfl
    · simp only [hsrc, ↓reduceIte]
      rfl
  · by_cases hhi : pgn = pgnHi
    · subst hhi
      by_cases hsrc : src = srcHi1 ∨ src = srcHi2 ∨ src = srcHi3
      · by_cases hopc : p.extractLsb' 0 8 = opcHi
        · obtain rfl | rfl | rfl := hsrc <;> simp only [hgf, hopc, hs21, hs31, hs32, true_or, or_true, ↓reduceIte] <;>
            exact congrArg Host.Outcome.next (acceptHeaderInfo_of_slices pr _ hopc ts s)
        · obtain rfl | rfl | rfl := hsrc <;> simp only [hgf, hopc, hs21, hs31, hs32, true_or, or_true, ↓reduceIte] <;> rfl
      · simp only [hgf, not_or.mp hsrc, not_or.mp (not_or.mp hsrc).2, ↓reduceIte]
        rfl
    · simp only [hgf, hhi, ↓reduceIte]
      rfl

/-! ### Stage 1 -/

/-- The row that stage 1 picks for a word does what FRAME does with the frame of that word: a violation row has its condition by
its word, and VALID dispatches the message. -/
theorem exec_decodeRaw (w : BitVec 40) (fb : FrameBuffer) (ts : Timestamp) (s : State) :
    exec (decodeRaw w fb ts) s = exec (.frame ⟨rawId w, rawLen w, fb, ts⟩) s := by
  rw [← rawWord_fields w, decodeRaw_eq_rows, exec_frame, processFrame_eq, rawId_rawWord, rawLen_rawWord]
  generalize rawId w = id, rawLen w = len
  by_cases hid : idIllegal id = true
  · rw [if_pos hid, if_pos hid]
    split_ifs <;> rfl
  · rw [if_neg hid, if_neg hid]
    by_cases hlen : lenIllegal len = true
    · rw [if_pos hlen, if_pos hlen]
      split_ifs <;> rfl
    · rw [if_neg hlen, if_neg hlen]
      rfl

/-! ### The pins -/

/-- The three fields of a frame word's identifier are the word's (30_encoding.md R79). -/
theorem fwId_slices (w : BitVec 93) :
    (fwId w).extractLsb' 29 3 = 0 ∧ (fwId w).extractLsb' 26 3 = fwPriority w ∧ (fwId w).extractLsb' 8 18 = fwPgn w ∧
      (fwId w).extractLsb' 0 8 = fwSource w := by
  have hzero : (0 : BitVec 3).toNat = 0 := rfl
  refine ⟨?_, ?_, ?_, ?_⟩ <;> apply BitVec.eq_of_toNat_eq <;>
    simp only [hzero, slice_toNat, fwId_toNat, fwPriority_toNat, fwPgn_toNat, fwSource_toNat] <;> omega

/-- The frame that carries a frame word is legal, and its message is the word's (log entry 7). -/
theorem exec_frameOfFw (w : BitVec 93) (ts : Timestamp) (s : State) :
    exec (.frame (frameOfFw w ts)) s = .next (deliver (dispatch table (fwMessage w ts)) (fwMessage w ts) s) := by
  obtain ⟨hlegalId, hpriority, hpgn, hsource⟩ := fwId_slices w
  have hlegal : legalFrame (frameOfFw w ts) := ⟨hlegalId, Nat.le_refl 8⟩
  have hmsg : messageOf (frameOfFw w ts) = fwMessage w ts := by
    rw [messageOf_eq_messageIn, fwMessage, ← hpriority, ← hpgn, ← hsource, ← memRead_bufferOf (fwPayload w)]
    rfl
  rw [exec_frame, processFrame_of_legal hlegal, hmsg]

/-- The control word is read back from the two pins it stands at (30_encoding.md R77). -/
theorem ctlWord_pins (w : BitVec 2) : ctlWord (w.getLsbD 1) (w.getLsbD 0) = w := by
  revert w
  decide

/-- Pins that carry a frame run FRAME of it. -/
theorem exec_decodePins_offer (f : Frame) (s : State) : exec (decodePins ⟨false, true, f⟩) s = exec (.frame f) s := by
  rw [decodePins_eq]
  rfl

/-- Pins at which a word stands run what the word decodes to. -/
theorem exec_decodePins_pinsOf (c : Coded) (s : State) : exec (decodePins (pinsOf c)) s = exec (decode c) s := by
  cases c with
  | ctl w f => exact congrArg (fun v => exec (decodeCtl v f) s) (ctlWord_pins w)
  | raw w fb ts => rw [pinsOf, exec_decodePins_offer, decode, exec_decodeRaw]
  | fw w ts => rw [pinsOf, exec_decodePins_offer, decode, exec_frameOfFw, exec_decodeFw]

/-- A word that stands at the pins of the very next operation is what the step runs. -/
theorem step_issueFirst_pinsOf (c : Coded) (s : State) : step (issueFirst (.cycle (pinsOf c)) s) = exec (decode c) s :=
  exec_decodePins_pinsOf c s

/-- Settles O15: the word stands at the pins, and a well-formed instruction is what its word decodes to. -/
theorem encodedInstructionsRunFromThePins : Obligations.EncodedInstructionsRunFromThePins := by
  intro i s hi
  rw [step_issueFirst_pinsOf, decodeOfEncodeIsTheInstruction i hi]

/-- Settles O16: a number that decodes is that of a word, which `withFetchWord` puts at the pins. -/
theorem placedTableWordsRun : Obligations.PlacedTableWordsRun := by
  intro s nbits w i hi
  rw [decodeTableWord] at hi
  rw [State.withFetchWord]
  cases hword : codedOfWord nbits w with
  | error e =>
    rw [hword] at hi
    cases hi
  | ok c =>
    rw [hword] at hi
    cases hi
    exact step_issueFirst_pinsOf c s

/-! ### Frames -/

theorem two_pow_prioW : 2 ^ prioW = 8 := rfl

/-- The fields of a frame's word are those of the frame (30_encoding.md R79). -/
theorem frameFw_slices (f : Frame) :
    fwPgn (frameFw f) = f.id.extractLsb' 8 18 ∧ fwSource (frameFw f) = f.id.extractLsb' 0 8 ∧
      fwPriority (frameFw f) = f.id.extractLsb' 26 3 ∧ fwPayload (frameFw f) = payloadOf f := by
  have hword : (frameFw f).toNat = f.id.toNat / 2 ^ 0 % 2 ^ 29 * 2 ^ 64 + (payloadOf f).toNat := by
    rw [← slice_toNat]
    exact append_toNat (f.id.extractLsb' 0 29) (payloadOf f)
  have := payload_lt (payloadOf f)
  refine ⟨?_, ?_, ?_, ?_⟩ <;> apply BitVec.eq_of_toNat_eq <;>
    simp only [slice_toNat, fwPgn_toNat, fwSource_toNat, fwPriority_toNat, fwPayload_toNat, hword,
      two_pow_prioW, two_pow_pgnW, two_pow_srcW] <;> omega

/-- So it carries the frame's message. -/
theorem fwMessage_frameFw (f : Frame) : fwMessage (frameFw f) f.ts = messageOf f := by
  obtain ⟨hpgn, hsource, hpriority, hpayload⟩ := frameFw_slices f
  rw [messageOf_eq_messageIn, fwMessage, hpgn, hsource, hpriority, hpayload, messageIn]

/-- Stage 1 says VALID of the frame it was given. -/
theorem eq_of_decodeRaw_eq_valid {f g : Frame} (h : decodeRaw (frameRaw f) f.bytes f.ts = .valid g) : g = f := by
  rw [frameRaw, decodeRaw_eq_rows] at h
  split_ifs at h
  cases h
  rfl

/-- Settles O14: stage 1 picks a violation row or VALID, and after VALID stage 2 picks the row of the frame's message. -/
theorem frameAgreesWithTheTables : Obligations.FrameAgreesWithTheTables := by
  intro f s
  have hraw : exec (.frame f) s = exec (decodeRaw (frameRaw f) f.bytes f.ts) s := by
    rw [exec_decodeRaw, frameRaw, rawId_rawWord, rawLen_rawWord]
  rw [hraw, classify]
  split
  next g hvalid =>
    rw [hvalid, eq_of_decodeRaw_eq_valid hvalid, exec_decodeFw, fwMessage_frameFw]
    rfl
  next => rfl

end Sys2Proof.Proofs
end

section
/-! SUPPORT. The invariant: whatever a step does, it leaves the output ports in agreement with the registers (10_state.md R33,
R35; 45_block_operations.md R163, R166). -/

namespace Sys2Proof.Proofs

open Sys2Proof Sys2Proof.Machine Sys2Proof.Safety Sys2Proof.Config Sys2Proof.Laws

/-- The PGN of a frame's message is a PGN exactly when the identifier's field is. -/
theorem messageIn_pgn_eq_iff (f : Frame) (key : Pgn) :
    (messageIn f).pgn = key.setWidth 32 ↔ f.id.extractLsb' 8 18 = key :=
  eq_comm.trans (setWidth_pgn_eq_iff key _)

/-- It is below 2^18 (10_state.md R33). -/
theorem messageIn_pgn_lt (f : Frame) : (messageIn f).pgn.toNat < 2 ^ 18 := by
  rw [messageIn, BitVec.toNat_setWidth]
  exact Nat.lt_of_le_of_lt (Nat.mod_le ..) (f.id.extractLsb' 8 18).isLt

/-- A state that shows a result with a frame's message meets the invariant when the result agrees. -/
theorem inv_of_resultAgrees_messageIn {s : State} {r : Res} {f : Frame} (hout : s.out = .transaction r (some (messageIn f)))
    (h : resultAgrees s r (some (messageIn f))) : Inv s := by
  rw [Safety.Inv, hout]
  refine ⟨h, fun msg hmsg => ?_⟩
  cases hmsg
  exact messageIn_pgn_lt f

/-- A state that shows a result without a message meets it when the result agrees. -/
theorem inv_of_resultAgrees_none {s : State} {r : Res} (hout : s.out = .transaction r none)
    (h : resultAgrees s r none) : Inv s := by
  rw [Safety.Inv, hout]
  exact ⟨h, nofun⟩

/-- A state that shows a sample meets it when the sample is the registers and the flags. -/
theorem inv_of_snapshot {s : State} (hout : s.out = .snapshot s.acc s.status) : Inv s := by
  rw [Safety.Inv, hout]
  exact ⟨rfl, rfl⟩

/-- Each of the last five rows of the table under 45_block_operations.md R163 leaves the ports in agreement: its conditions are
what its result says of the message. -/
theorem inv_validOutcome (f : Frame) (s : State) : Inv (validOutcome f s) := by
  have hgf := messageIn_pgn_eq_iff f 61184#18
  have hhi := messageIn_pgn_eq_iff f 65535#18
  generalize hs : validOutcome f s = t
  simp only [validOutcome] at hs
  split_ifs at hs with hpgn hpgn0 hsrc hopc hsrc hopc <;> subst hs
  · exact inv_of_resultAgrees_messageIn rfl ⟨rfl, rfl, _, rfl, mt hgf.mp hpgn.1, mt hhi.mp hpgn.2⟩
  · exact inv_of_resultAgrees_messageIn rfl ⟨rfl, _, rfl, .inl ⟨rfl, hgf.mpr hpgn0, hsrc⟩⟩
  · exact inv_of_resultAgrees_messageIn rfl ⟨rfl, _, rfl, .inl ⟨rfl, hgf.mpr hpgn0, not_not.mp hsrc, hopc⟩⟩
  · exact inv_of_resultAgrees_messageIn rfl
      ⟨_, rfl, .inl ⟨rfl, rfl, ⟨hgf.mpr hpgn0, not_not.mp hsrc, not_not.mp hopc⟩, rfl, rfl⟩⟩
  all_goals
    have hpgn1 : f.id.extractLsb' 8 18 = 65535#18 := by_contra fun h => hpgn ⟨hpgn0, h⟩
  · exact inv_of_resultAgrees_messageIn rfl ⟨rfl, _, rfl, .inr ⟨rfl, hhi.mpr hpgn1, hsrc⟩⟩
  all_goals simp only [ne_eq, ← not_or, not_not] at hsrc
  · exact inv_of_resultAgrees_messageIn rfl ⟨rfl, _, rfl, .inr ⟨rfl, hhi.mpr hpgn1, hsrc, hopc⟩⟩
  · exact inv_of_resultAgrees_messageIn rfl
      ⟨_, rfl, .inr ⟨rfl, rfl, ⟨hhi.mpr hpgn1, hsrc, not_not.mp hopc⟩, rfl, rfl, rfl⟩⟩

/-- A violation is reported with its flag set and without a message (60_exceptions.md R178, R179). -/
theorem inv_raiseViolation {eId eLen : Bool} (h : eId = true ∨ eLen = true) (s : State) : Inv (raiseViolation eId eLen s) := by
  cases eId with
  | true => exact inv_of_resultAgrees_none rfl ⟨rfl, rfl, rfl, by simp⟩
  | false =>
    have hlen : eLen = true := h.resolve_left Bool.false_ne_true
    exact inv_of_resultAgrees_none rfl ⟨rfl, rfl, rfl, by simp [hlen]⟩

/-- A FRAME transaction leaves the ports in agreement, from whatever state. -/
theorem inv_processFrame (f : Frame) (s : State) : Inv (processFrame table f s) := by
  rw [processFrame_eq, deliver_dispatch_table]
  split_ifs
  · exact inv_raiseViolation (.inl rfl) s
  · exact inv_raiseViolation (.inr rfl) s
  · exact inv_validOutcome f s

/-- An EMPTY result says that there is no message. -/
theorem inv_reportEmpty (s : State) : Inv (reportEmpty s) := inv_of_resultAgrees_none rfl ⟨rfl, rfl, rfl⟩

/-- Settles O51: the output of reset is EMPTY without a message. -/
theorem invariantHoldsAtReset : Obligations.InvariantHoldsAtReset := inv_of_resultAgrees_none rfl ⟨rfl, rfl, rfl⟩

/-- Settles O52: each of the four things a step can do replaces the outputs, so the state after it meets the invariant
whatever the ports showed before. -/
theorem stepKeepsTheInvariant : Obligations.StepKeepsTheInvariant := by
  intro s t _ ht
  obtain ⟨v, f, -, hs⟩ | ⟨f, -, hs⟩ | ⟨f, -, hs⟩ | ⟨-, hs⟩ := step_cases s
  all_goals
    rw [hs] at ht
    cases ht
  · exact inv_reportEmpty _
  · exact inv_reportEmpty _
  · exact inv_processFrame f (advance s)
  · exact inv_of_snapshot rfl

end Sys2Proof.Proofs
end

section
/-! SUPPORT. Frames bit by bit: the outcome of a frame in every state, the frames each handler updates and the bytes they
write, and what a frame's priority, time, stale bytes and earlier flags have no part in (30_encoding.md R83, R85;
45_block_operations.md R163; 20_memory.md R50, R51, R61). -/

namespace Sys2Proof.Proofs

open Sys2Proof Sys2Proof.Machine Sys2Proof.Safety Sys2Proof.Config Sys2Proof.Laws

/-! ### The outcome of a frame -/

/-- Settles O34: the pipeline over this hardware's table is the table under rule R163. -/
theorem frameHasOneOfSevenOutcomes : Obligations.FrameHasOneOfSevenOutcomes := by
  intro f s
  rw [exec_frame, processFrame_table]

/-- Settles O35: the row composes the message and dispatches it, which is the last five rows of that table. -/
theorem validRowGoesToStageTwo : Obligations.ValidRowGoesToStageTwo := by
  intro f s _
  rw [exec, execValid, deliver_dispatch_table]

/-! ### The frames each handler updates -/

/-- A frame that handler 0 accepts writes the two grain fields and is reported with their mask. -/
theorem frameOutcome_of_acceptsGrainFlow {f : Frame} (h : acceptsGrainFlow f) (s : State) :
    frameOutcome f s = { s with
      acc := { s.acc with
        grainFlow := (payloadOf f).extractLsb' 16 16, grainMoisture := (payloadOf f).extractLsb' 32 16 }
      out := .transaction ⟨.updated, 0, 0b00011⟩ (some (messageIn f)) } := by
  obtain ⟨hlegal, hpgn, hsrc, hopc⟩ := (acceptsGrainFlow_iff f).mp h
  rw [frameOutcome_of_legal hlegal]
  simp [validOutcome, hpgn, hsrc, hopc]

/-- A frame that handler 1 accepts writes the three header fields and is reported with their mask. -/
theorem frameOutcome_of_acceptsHeaderInfo {f : Frame} (h : acceptsHeaderInfo f) (s : State) :
    frameOutcome f s = { s with
      acc := { s.acc with
        headerWidth := (payloadOf f).extractLsb' 8 16
        headerRows := (payloadOf f).extractLsb' 48 8
        rowSpacing := (payloadOf f).extractLsb' 56 8 }
      out := .transaction ⟨.updated, 1, 0b11100⟩ (some (messageIn f)) } := by
  obtain ⟨hlegal, hpgn, hsrc, hopc⟩ := (acceptsHeaderInfo_iff f).mp h
  rw [frameOutcome_of_legal hlegal]
  obtain hsrc | hsrc | hsrc := hsrc <;> simp [validOutcome, hpgn, hsrc, hopc]

/-- A frame that no handler accepts, legal or not, is not reported as UPDATED. -/
theorem kind_ne_updated_of_not_accepted {f : Frame} (hgf : ¬acceptsGrainFlow f) (hhi : ¬acceptsHeaderInfo f) {s : State}
    {r : Res} {m : Option CanMessage} (hout : (frameOutcome f s).out = .transaction r m) : r.kind ≠ .updated := by
  by_cases hlegal : legalFrame f
  · obtain ⟨k, h, hkind, heq⟩ := validOutcome_of_not_accepted hlegal hgf hhi s
    rw [frameOutcome_of_legal hlegal, heq] at hout
    cases hout
    obtain rfl | rfl | rfl := hkind <;> nofun
  · obtain ⟨eId, eLen, heq⟩ := processFrame_of_not_legal hlegal table s
    rw [← processFrame_table, heq, raiseViolation_out] at hout
    cases hout
    cases eId <;> decide

/-- A FRAME step answers UPDATED for the frames that a handler accepts and no others, with that handler's index and mask. -/
theorem exec_frame_updated_iff (f : Frame) (s : State) (h : BitVec 1) (mask : BitVec 5) :
    (∃ (t : State) (m : CanMessage), exec (.frame f) s = .next t ∧
      t.out = .transaction ⟨.updated, h, mask⟩ (some m)) ↔
    (acceptsGrainFlow f ∧ h = 0 ∧ mask = 0b00011) ∨ (acceptsHeaderInfo f ∧ h = 1 ∧ mask = 0b11100) := by
  constructor
  · rintro ⟨t, m, hexec, hout⟩
    rw [frameHasOneOfSevenOutcomes f s] at hexec
    cases hexec
    by_cases hgf : acceptsGrainFlow f
    · rw [frameOutcome_of_acceptsGrainFlow hgf] at hout
      cases hout
      exact .inl ⟨hgf, rfl, rfl⟩
    · by_cases hhi : acceptsHeaderInfo f
      · rw [frameOutcome_of_acceptsHeaderInfo hhi] at hout
        cases hout
        exact .inr ⟨hhi, rfl, rfl⟩
      · exact absurd rfl (kind_ne_updated_of_not_accepted hgf hhi hout)
  · rintro (⟨hgf, rfl, rfl⟩ | ⟨hhi, rfl, rfl⟩)
    · exact ⟨_, _, frameHasOneOfSevenOutcomes f s, by rw [frameOutcome_of_acceptsGrainFlow hgf]⟩
    · exact ⟨_, _, frameHasOneOfSevenOutcomes f s, by rw [frameOutcome_of_acceptsHeaderInfo hhi]⟩

/-- Settles O36: index 0 and mask 00011 are those of handler 0 alone. -/
theorem grainFlowUpdatesExactlyItsFrames : Obligations.GrainFlowUpdatesExactlyItsFrames := by
  intro f s
  rw [exec_frame_updated_iff]
  simp

/-- Settles O37: index 1 and mask 11100 are those of handler 1 alone. -/
theorem headerInfoUpdatesExactlyItsFrames : Obligations.HeaderInfoUpdatesExactlyItsFrames := by
  intro f s
  rw [exec_frame_updated_iff]
  simp

/-! ### The bytes they write -/

/-- Settles O38: the two slices of the payload are lanes 3, 2 and 5, 4. -/
theorem grainFlowFrameWritesItsBytes : Obligations.GrainFlowFrameWritesItsBytes := by
  intro f s hgf
  obtain ⟨-, -, hflow, hmoisture, -⟩ := payload_slices f.len f.bytes
  rw [frameHasOneOfSevenOutcomes f s, frameOutcome_of_acceptsGrainFlow hgf, payloadOf, hflow, hmoisture]
  rfl

/-- Settles O39: the three slices of the payload are lanes 2, 1 and 6 and 7. -/
theorem headerInfoFrameWritesItsBytes : Obligations.HeaderInfoFrameWritesItsBytes := by
  intro f s hhi
  obtain ⟨-, -, -, -, hwidth, hrows, hspacing⟩ := payload_slices f.len f.bytes
  rw [frameHasOneOfSevenOutcomes f s, frameOutcome_of_acceptsHeaderInfo hhi, payloadOf, hwidth, hrows, hspacing]
  rfl

/-! ### Flags -/

/-- A frame sets the flag of each of its violations (10_state.md R28) and does all else whatever the flags are. -/
theorem processFrame_with_status (t : DispatchTable) (f : Frame) (s : State) (st : BitVec 2) :
    processFrame t f { s with status := st } =
      { processFrame t f s with status := stickyStatus st (idIllegal f.id) (lenIllegal f.len) } := by
  rw [processFrame_eq, processFrame_eq]
  cases hid : idIllegal f.id with
  | true => rfl
  | false =>
    cases hlen : lenIllegal f.len with
    | true => rfl
    | false =>
      rw [stickyStatus_none]
      cases dispatch t (messageOf f) <;> rfl

/-- The flags after a frame. -/
theorem processFrame_status (t : DispatchTable) (f : Frame) (s : State) :
    (processFrame t f s).status = stickyStatus s.status (idIllegal f.id) (lenIllegal f.len) :=
  congrArg State.status (processFrame_with_status t f s s.status)

/-- A cycle runs what its pins decode to. -/
theorem step_of_nextInput_cycle {s : State} {p : Pins} (h : nextInput s = .cycle p) :
    step s = exec (decodePins p) (advance s) := by
  rw [step, h]

/-- Settles O42: a frame joins its own violations to the flags, by `processFrame_status`; nothing else but RESET writes them, and
no meaning of a cycle reads them. -/
theorem flagsAreStickyAndInfluenceNoDecode : Obligations.FlagsAreStickyAndInfluenceNoDecode := by
  refine ⟨fun s t ht => ?_, fun s t p st hin ht => ?_⟩
  · obtain ⟨v, f, hin, hs⟩ | ⟨f, hin, hs⟩ | ⟨f, hin, hs⟩ | ⟨hin, hs⟩ := step_cases s
    all_goals
      rw [hs] at ht
      cases ht
      rw [hin]
    · rfl
    · rfl
    · change (errId (processFrame table f (advance s)).status = true ↔ _) ∧
        (errLen (processFrame table f (advance s)).status = true ↔ _)
      rw [processFrame_status, errId_stickyStatus, errLen_stickyStatus, idIllegal_eq, lenIllegal_eq]
      simp
    · rfl
  · have hin' : nextInput { s with status := st } = .cycle p := hin
    rw [step_of_nextInput_cycle hin, decodePins_eq] at ht
    rw [step_of_nextInput_cycle hin', decodePins_eq]
    split_ifs at ht ⊢
    · cases ht
      exact ⟨_, rfl, rfl, rfl, rfl⟩
    · rw [exec_frame] at ht ⊢
      cases ht
      exact ⟨_, congrArg Host.Outcome.next (processFrame_with_status table p.frame (advance s) st), rfl, rfl, rfl⟩
    · cases ht
      exact ⟨_, rfl, rfl, rfl, rfl⟩

/-! ### Stale bytes in a run -/

/-- Operations that differ in stale bytes only have the same effect. -/
theorem effect_of_sameInputsButStale {x y : Input} (h : sameInputsButStale x y) (s : State) : effect s x = effect s y := by
  cases x with
  | snap =>
    cases y with
    | snap => rfl
    | cycle q => exact h.elim
  | cycle p =>
    cases y with
    | snap => exact h.elim
    | cycle q =>
      obtain ⟨hrst, hvalid, hframe⟩ := h
      rw [effect_cycle, effect_cycle, hrst, hvalid, processFrame_of_sameButStale hframe]

/-- Settles O44, by induction on the two sequences: the effect of each operation is the same, so the next meet the same state. -/
theorem staleBytesNeverMatterInARun : Obligations.StaleBytesNeverMatterInARun := by
  intro l l' s h
  induction h generalizing s with
  | nil => rfl
  | cons hxy _ ih => rw [runInputs_cons, runInputs_cons, effect_of_sameInputsButStale hxy, ih]

/-! ### Priority and time -/

/-- Dispatch reads neither the priority nor the time of a message (43_signal_decoders.md R129). -/
theorem dispatch_congr {m n : CanMessage} (t : DispatchTable) (hpgn : m.pgn = n.pgn) (hsource : m.source = n.source)
    (hpayload : m.payload = n.payload) : dispatch t m = dispatch t n := by
  simp only [dispatch, signalDecode, hpgn, hsource, hpayload]

/-- The messages of two frames that differ in priority and time only do so too. -/
theorem messageIn_of_sameButPriorityAndTime {f g : Frame} (h : sameButPriorityAndTime f g) :
    (messageIn f).pgn = (messageIn g).pgn ∧ (messageIn f).source = (messageIn g).source ∧
      (messageIn f).payload = (messageIn g).payload := by
  obtain ⟨hlow, -, hlen, hbytes⟩ := h
  have hnat : f.id.toNat / 2 ^ 0 % 2 ^ 26 = g.id.toNat / 2 ^ 0 % 2 ^ 26 := by
    rw [← slice_toNat, ← slice_toNat, hlow]
  have hpgn : f.id.extractLsb' 8 18 = g.id.extractLsb' 8 18 := by
    apply BitVec.eq_of_toNat_eq
    rw [slice_toNat, slice_toNat]
    omega
  have hsource : f.id.extractLsb' 0 8 = g.id.extractLsb' 0 8 := by
    apply BitVec.eq_of_toNat_eq
    rw [slice_toNat, slice_toNat]
    omega
  simp only [messageIn, payloadOf, hpgn, hsource, hlen, hbytes, and_self]

/-- Delivering one verdict on two messages differs in the message shown and in nothing else. -/
theorem deliver_any_message (v : Verdict) (m n : CanMessage) (s : State) :
    (deliver v m s).acc = (deliver v n s).acc ∧ resOf (deliver v m s).out = resOf (deliver v n s).out ∧
      msgOf (deliver v m s).out = some m := by
  cases v <;> exact ⟨rfl, rfl, rfl⟩

/-- Settles O45: both frames are taken for the same violation, or their messages get the same verdict. -/
theorem priorityAndTimeNeverMatter : Obligations.PriorityAndTimeNeverMatter := by
  intro f g s t u hfg ht hu
  obtain ⟨hpgn, hsource, hpayload⟩ := messageIn_of_sameButPriorityAndTime hfg
  obtain ⟨-, htop, hlen, -⟩ := hfg
  have hid : idIllegal f.id = idIllegal g.id := by rw [idIllegal_eq, idIllegal_eq, htop]
  rw [exec_frame] at ht hu
  cases ht
  cases hu
  have hsame : (processFrame table f s).acc = (processFrame table g s).acc ∧
      resOf (processFrame table f s).out = resOf (processFrame table g s).out ∧
      ∀ m, msgOf (processFrame table f s).out = some m → m = messageIn f := by
    rw [processFrame_eq, processFrame_eq, hid, hlen, messageOf_eq_messageIn, messageOf_eq_messageIn,
      dispatch_congr table hpgn hsource hpayload]
    split_ifs
    · exact ⟨rfl, rfl, nofun⟩
    · exact ⟨rfl, rfl, nofun⟩
    · obtain ⟨hacc, hres, hmsg⟩ := deliver_any_message (dispatch table (messageIn g)) (messageIn f) (messageIn g) s
      exact ⟨hacc, hres, fun m hm => Option.some.inj (hm.symm.trans hmsg)⟩
  obtain ⟨hacc, hres, hmsg⟩ := hsame
  refine ⟨hacc, ?_, ?_, hres, fun m hm => ?_⟩
  · rw [processFrame_status, processFrame_status, hid, hlen]
  · rw [processFrame_pending, processFrame_pending]
  · rw [hmsg m hm]
    exact ⟨rfl, rfl⟩

/-! ### Totality -/

/-- Settles O8: each of the four things a step can do answers a state whose queue is the rest (`exists_step_eq_next`). -/
theorem everyStepAnswersANextState : Obligations.EveryStepAnswersANextState := exists_step_eq_next

end Sys2Proof.Proofs
end

section
/-! SUPPORT. The units in numbers: identifiers and their triples, the payload as a sum, fields as slices, physical values, a
longer dispatch table, and two merges with one mask (40_identifier_decoder.md R100; 41_payload_assembler.md R110;
43_signal_decoders.md R126 to R128; 42_pgn_dispatcher.md R121; 44_telemetry_accumulator.md R157). -/

namespace Sys2Proof.Proofs

open Sys2Proof Sys2Proof.Machine Sys2Proof.Safety Sys2Proof.Config Sys2Proof.Laws

/-! ### Identifiers and triples -/

/-- A legal identifier is its three fields put together (40_identifier_decoder.md R100). -/
theorem idWord_fields {id : CanId} (h : id.toNat ≤ 0x1FFFFFFF) :
    idWord (id.extractLsb' 26 3) (id.extractLsb' 8 18) (id.extractLsb' 0 8) = id := by
  apply BitVec.eq_of_toNat_eq
  rw [idWord_toNat]
  simp only [slice_toNat, two_pow_prioW, two_pow_pgnW, two_pow_srcW]
  omega

/-- The fields of three values put together are the three values, and nothing stands above them. -/
theorem idWord_slices (pr : Priority) (pgn : Pgn) (src : SourceAddr) :
    (idWord pr pgn src).extractLsb' 29 3 = 0 ∧ (idWord pr pgn src).extractLsb' 26 3 = pr ∧
      (idWord pr pgn src).extractLsb' 8 18 = pgn ∧ (idWord pr pgn src).extractLsb' 0 8 = src := by
  have := priority_lt pr; have := pgn_lt pgn; have := sourceAddr_lt src
  have hzero : (0 : BitVec 3).toNat = 0 := rfl
  refine ⟨?_, ?_, ?_, ?_⟩ <;> apply BitVec.eq_of_toNat_eq <;> rw [slice_toNat, idWord_toNat] <;> omega

/-- IDDEC of a legal identifier answers its three slices. -/
theorem iddec_of_legalId {id : CanId} (h : legalId id) :
    iddec id = .ok ⟨id.extractLsb' 26 3, (id.extractLsb' 8 18).setWidth 32, id.extractLsb' 0 8⟩ := by
  rw [iddec_eq, if_neg (not_not.mpr h)]

/-- The legal identifiers are those below 2^29. -/
theorem legalId_iff (id : CanId) : legalId id ↔ id.toNat ≤ 0x1FFFFFFF := by
  rw [← not_iff_not, ← decide_eq_true_iff (p := ¬legalId id), ← idIllegal_eq, idIllegal_iff]
  omega

/-- Settles O18: the three fields of a word below 2^29 fill it, and put together they are cut out again. -/
theorem identifiersAndTriplesCorrespond : Obligations.IdentifiersAndTriplesCorrespond := by
  refine ⟨fun id hid => ⟨iddec_of_legalId ((legalId_iff id).mpr hid), idWord_fields hid⟩, fun pr pgn src => ?_⟩
  obtain ⟨hlegal, hpr, hpgn, hsrc⟩ := idWord_slices pr pgn src
  refine ⟨(legalId_iff _).mp hlegal, ?_⟩
  rw [iddec_of_legalId hlegal, hpr, hpgn, hsrc]

/-! ### The payload -/

/-- The number that bytes make is the sum of the bytes, each shifted to its place. -/
theorem leNat_eq_sum (l : List Byte) :
    leNat l = ((List.range l.length).map fun i => (l.getD i 0).toNat * 2 ^ (8 * i)).sum := by
  induction l with
  | nil => rfl
  | cons b bs ih =>
    rw [leNat, ih, List.length_cons, List.range_succ_eq_map, List.map_cons, List.map_map, List.sum_cons,
      ← List.sum_map_mul_left, List.getD_cons_zero, Nat.mul_zero, Nat.pow_zero, Nat.mul_one]
    congr 2
    refine List.map_congr_left fun i _ => ?_
    rw [Function.comp_apply, List.getD_cons_succ, Nat.mul_succ, Nat.pow_add]
    ring

/-- Settles O20: the payload is the number made by the bytes below the length (`payload_toNat`), which is that sum. -/
theorem payloadIsTheSumOfItsBytes : Obligations.PayloadIsTheSumOfItsBytes := by
  intro len fb hlen
  refine ⟨_, pack_of_le hlen fb, ?_⟩
  have hlength : ((bytesOf fb).take len.toNat).length = len.toNat := List.length_take_of_le hlen
  rw [payload_toNat, leNat_eq_sum, hlength]
  congr 1
  refine List.map_congr_left fun i hi => ?_
  have hbelow : i < len.toNat := List.mem_range.mp hi
  rw [List.getD_eq_getElem?_getD, List.getElem?_take_of_lt hbelow, ← List.getD_eq_getElem?_getD]

/-! ### Fields -/

/-- Settles O23: FIELD is the slice by `field_eq_slice`, and a slice is made of the bits in its range. -/
theorem fieldIsItsSlice : Obligations.FieldIsItsSlice := by
  intro p start width _ hrange
  have hwidth : width ≤ 64 := by omega
  refine ⟨field_eq_slice p start width hwidth, ?_, fun q hbits => ?_⟩
  · rw [field_toNat p start width hwidth]
    exact Nat.mod_lt _ (Nat.two_pow_pos width)
  · rw [field_eq_slice p start width hwidth, field_eq_slice q start width hwidth]
    congr 1
    apply BitVec.eq_of_getLsbD_eq
    intro k hk
    rw [BitVec.getLsbD_extractLsb', BitVec.getLsbD_extractLsb', hbits (start + k) (by omega) (by omega)]

/-- Settles O24: as numbers both are the lanes' number, divided and cut off at the same places. -/
theorem byteFieldsAreFrameReads : Obligations.ByteFieldsAreFrameReads := by
  intro len fb i n hlen _ hrange
  refine ⟨pack_of_le hlen fb, BitVec.eq_of_toNat_eq ?_⟩
  have hwhole : (memRead len fb 0 8).toNat = leNat (lanes len fb) := by
    rw [memRead_toNat len fb 0 8 (Nat.le_refl 8), Nat.mul_zero, Nat.pow_zero, Nat.div_one]
    exact Nat.mod_eq_of_lt (leNat_lt (lanes len fb))
  rw [field_toNat _ _ _ (by omega), hwhole, memRead_toNat len fb i n hrange]

/-! ### Physical values -/

/-- Settles O25: the two grain fields have the scale 1/100, the three header fields the scale 1, and every offset is 0. -/
theorem physicalValuesOfTheFields : Obligations.PhysicalValuesOfTheFields := by
  refine ⟨fun raw => ?_, fun h hh d hd raw => ?_⟩
  · rw [scale100, scaleGf, mul_one_div]
  · rw [theDispatchTable, List.mem_pair] at hh
    obtain rfl | rfl := hh
    · simp only [List.mem_cons, List.not_mem_nil, or_false] at hd
      obtain rfl | rfl := hd <;> simp [physical, div_eq_mul_inv]
    · simp only [List.mem_cons, List.not_mem_nil, or_false] at hd
      obtain rfl | rfl | rfl := hd <;> simp [physical]

/-! ### The float view -/

/-- Handler 0 accepts the pseudo-frame `GF` of source 211 (30_encoding.md R88), whatever its raw values. -/
theorem acceptsGrainFlow_gfFrame (fl mo : BitVec 16) (pr : Priority) (ts : Timestamp) :
    acceptsGrainFlow (gfFrame 211 fl mo pr ts) ∧ payloadOf (gfFrame 211 fl mo pr ts) = gfPayload fl mo 0 := by
  obtain ⟨hlegal, -, hpgn, hsrc⟩ := idWord_slices pr pgnGf 211
  obtain ⟨hopc, -⟩ := gfPayload_slices fl mo 0
  have hpayload : payloadOf (gfFrame 211 fl mo pr ts) = gfPayload fl mo 0 := memRead_bufferOf _
  refine ⟨(acceptsGrainFlow_iff _).mpr ⟨⟨hlegal, Nat.le_refl 8⟩, hpgn, hsrc, ?_⟩, hpayload⟩
  rw [hpayload, hopc]
  rfl

/-- Settles O26: the frame writes its two raw values, which every encoding sends to what compares equal to 15 and 12. -/
theorem floatViewOfTheSourceExample : Obligations.FloatViewOfTheSourceExample := by
  intro α enc s pr ts
  obtain ⟨haccepts, hpayload⟩ := acceptsGrainFlow_gfFrame 1500 1200 pr ts
  obtain ⟨-, hflow, hmoisture, -⟩ := gfPayload_slices 1500 1200 0
  refine ⟨_, frameHasOneOfSevenOutcomes _ s, ?_⟩
  rw [frameOutcome_acc_of_acceptsGrainFlow haccepts, hpayload, hflow, hmoisture]
  exact ⟨enc.fifteen, enc.twelve⟩

/-! ### A longer table -/

/-- What lookup finds in a list it finds in every list that begins with it. -/
theorem lookupFrom_append {k : Nat} {hs : List Handler} {pgn : BitVec 32} {e : Nat × Handler}
    (h : lookupFrom k hs pgn = some e) (more : List Handler) : lookupFrom k (hs ++ more) pgn = some e := by
  induction hs generalizing k with
  | nil => cases h
  | cons h₀ hs ih =>
    rw [List.cons_append, lookupFrom]
    rw [lookupFrom] at h
    by_cases hkey : h₀.key.setWidth 32 = pgn
    · rw [if_pos hkey] at h ⊢
      exact h
    · rw [if_neg hkey] at h ⊢
      exact ih h

/-- Settles O28: a message that is dispatched to an entry of the shorter table finds the same entry in the longer. -/
theorem laterEntriesLeaveDispatchAlone : Obligations.LaterEntriesLeaveDispatchAlone := by
  intro t t' more msg hlonger hkey
  cases hlookup : lookup t msg.pgn with
  | none =>
    rw [dispatch, hlookup] at hkey
    exact absurd rfl hkey
  | some e =>
    have hlookup' : lookup t' msg.pgn = some e := by
      rw [lookup, hlonger]
      exact lookupFrom_append hlookup more
    rw [dispatch, dispatch, hlookup, hlookup']

/-! ### Two merges -/

/-- Of two values for a register, the second carried whenever the first is, the second is what it holds. -/
theorem getD_getD_of_isSome_eq {α : Type} {a b : Option α} (h : a.isSome = b.isSome) (old : α) :
    b.getD (a.getD old) = b.getD old := by
  cases b with
  | some _ => rfl
  | none =>
    cases a with
    | none => rfl
    | some _ => cases h

/-- Settles O33: equal masks carry the same fields, and field by field the second merge replaces what the first wrote. -/
theorem laterUpdateOfAKindWins : Obligations.LaterUpdateOfAKindWins := by
  intro acc u v hmask
  have hbit (i : Nat) : u.mask.getLsbD i = v.mask.getLsbD i := by rw [hmask]
  have h0 := hbit 0; have h1 := hbit 1; have h2 := hbit 2; have h3 := hbit 3; have h4 := hbit 4
  rw [mask_bit0, mask_bit0] at h0
  rw [mask_bit1, mask_bit1] at h1
  rw [mask_bit2, mask_bit2] at h2
  rw [mask_bit3, mask_bit3] at h3
  rw [mask_bit4, mask_bit4] at h4
  simp only [apply, getD_getD_of_isSome_eq h0, getD_getD_of_isSome_eq h1, getD_getD_of_isSome_eq h2,
    getD_getD_of_isSome_eq h3, getD_getD_of_isSome_eq h4]

end Sys2Proof.Proofs
end

section
/-! SUPPORT. Stage 0, the sample, the ports, and the rows of stages 1 and 2, each row's next state in the spec's own numbers
(45_block_operations.md R160 to R166; 60_exceptions.md R176 to R182; 43_signal_decoders.md R131, R137). -/

namespace Sys2Proof.Proofs

open Sys2Proof Sys2Proof.Machine Sys2Proof.Safety Sys2Proof.Config Sys2Proof.Laws

/-! ### Reset, idle, the sample, the step -/

/-- Settles O2: the three fields as `State.reset` gives them. -/
theorem resetLeavesFlagsClearAndNothingIssued : Obligations.ResetLeavesFlagsClearAndNothingIssued := ⟨rfl, rfl, rfl⟩

/-- The oldest issued operation is the next, and taking it leaves the others. -/
theorem nextInput_and_advance_of_pending_cons {s : State} {x : Input} {rest : List Input} (h : s.pending = x :: rest) :
    nextInput s = x ∧ advance s = { s with pending := rest } := by
  rw [nextInput, advance, h]
  exact ⟨rfl, rfl⟩

/-- Settles O5: `step` decodes the pins of the next operation, and pins that drive nothing decode to IDLE. -/
theorem stepRunsTheDecodedInstruction : Obligations.StepRunsTheDecodedInstruction := by
  refine ⟨fun s p rest h => ?_, fun s h => ?_⟩
  · obtain ⟨hnext, hadvance⟩ := nextInput_and_advance_of_pending_cons h
    rw [step_of_nextInput_cycle hnext, hadvance]
  · have hnext : nextInput s = .cycle quietPins := by rw [nextInput, h, List.headD_nil]
    have hadvance : advance s = s := by rw [advance, h, List.tail_nil, ← h]
    rw [step_of_nextInput_cycle hnext, hadvance, decodePins_eq]
    rfl

/-- Settles O3: RESET writes every register, and pins with `rst` decode to it whatever else they hold. -/
theorem resetGivesS0AndDropsAFrame : Obligations.ResetGivesS0AndDropsAFrame := by
  refine ⟨fun s => rfl, fun s v f rest h => ?_⟩
  rw [stepRunsTheDecodedInstruction.1 s _ rest h, decodePins_eq]
  rfl

/-- Settles O4: IDLE reports and does nothing else, and pins with neither `rst` nor `frame_valid` decode to it. -/
theorem idleChangesNothing : Obligations.IdleChangesNothing := by
  refine ⟨fun s => rfl, fun f => ?_⟩
  rw [decodePins_eq]
  rfl

/-- Settles O6: the sample is taken of the state with the operation gone from the queue. -/
theorem snapshotReturnsTheRegisters : Obligations.SnapshotReturnsTheRegisters := by
  intro s rest h
  obtain ⟨hnext, hadvance⟩ := nextInput_and_advance_of_pending_cons h
  rw [step, hnext, hadvance]
  rfl

/-- A frame does not read the outputs before it: it replaces them. -/
theorem processFrame_with_out (t : DispatchTable) (f : Frame) (s : State) (o : Output) :
    processFrame t f { s with out := o } = processFrame t f s := by
  rw [processFrame_eq, processFrame_eq]
  split
  · rfl
  · split
    · rfl
    · cases dispatch t (messageOf f) <;> rfl

/-- Settles O53: the next operation is read off the queue, and whatever it is it replaces the outputs. -/
theorem outputsAreNeverRead : Obligations.OutputsAreNeverRead := by
  intro s o
  have hnext : nextInput { s with out := o } = nextInput s := rfl
  cases hin : nextInput s with
  | snap =>
    rw [step, step, hnext, hin]
    rfl
  | cycle p =>
    rw [step_of_nextInput_cycle hin, step_of_nextInput_cycle (hnext.trans hin), decodePins_eq]
    split_ifs
    · rfl
    · exact congrArg Host.Outcome.next (processFrame_with_out table p.frame (advance s) o)
    · rfl

/-! ### The ports -/

/-- Five fields of these widths side by side are cut out again. -/
theorem five_fields_slices (flow moisture width : BitVec 16) (rows spacing : BitVec 8) :
    let w : BitVec 64 := spacing ++ rows ++ width ++ moisture ++ flow
    w.extractLsb' 0 16 = flow ∧ w.extractLsb' 16 16 = moisture ∧ w.extractLsb' 32 16 = width ∧
      w.extractLsb' 48 8 = rows ∧ w.extractLsb' 56 8 = spacing := by
  have := flow.isLt; have := moisture.isLt; have := width.isLt; have := rows.isLt; have := spacing.isLt
  refine ⟨?_, ?_, ?_, ?_, ?_⟩ <;> apply BitVec.eq_of_toNat_eq <;> simp only [slice_toNat, append_toNat] <;> omega

/-- There is a message at the port exactly when the last operation was a transaction with one. -/
theorem msgValid_iff (s : State) : (outPorts s).msgValid = true ↔ ∃ r m, s.out = .transaction r (some m) := by
  change (msgOf s.out).isSome = true ↔ _
  cases s.out with
  | transaction r m => cases m <;> simp [msgOf]
  | snapshot d st => simp [msgOf]

/-- Settles O7: the snapshot word is the five fields side by side (10_state.md R37), and each port is the field it shows. -/
theorem outputPortsShowTheRegisters : Obligations.OutputPortsShowTheRegisters := by
  refine ⟨fun d => five_fields_slices .., fun s => ⟨rfl, rfl, rfl, rfl, rfl, rfl, msgValid_iff s, fun r m hout => ?_⟩⟩
  rw [outPorts, hout]
  exact ⟨rfl, rfl, rfl, rfl⟩

/-- Settles O9, kind by kind. -/
theorem resultKindsHaveTheirCodes : Obligations.ResultKindsHaveTheirCodes := by
  refine ⟨rfl, rfl, rfl, rfl, rfl, rfl, rfl, fun k => ?_⟩
  cases k <;> decide

/-- Settles O10: seven words computed. -/
theorem tableWordsDecode : Obligations.TableWordsDecode := by
  refine ⟨?_, ?_, ?_, ?_, ?_, ?_, ?_⟩ <;> decide

/-! ### The rows of stage 1 -/

/-- Settles O54: the three rows take one violation, and its flags are the identifier's with or without the length's. -/
theorem invalidIdRowsTakeTheViolation : Obligations.InvalidIdRowsTakeTheViolation := by
  intro id len s i hi
  have hexec : exec i s = .next (raiseViolation true (lenIllegal len) s) := by
    obtain rfl | rfl | rfl := hi <;> rfl
  rw [hexec, lenIllegal_eq]
  by_cases hlen : 8 < len.toNat
  · rw [if_pos hlen, decide_eq_true hlen]
    rfl
  · rw [if_neg hlen, decide_eq_false hlen]
    rfl

/-- Settles O55: the seven rows take one violation. -/
theorem frameTooLongRowsTakeTheViolation : Obligations.FrameTooLongRowsTakeTheViolation := by
  intro id len s i hi
  have hexec : exec i s = .next (raiseViolation false true s) := by
    obtain rfl | rfl | rfl | rfl | rfl | rfl | rfl := hi <;> rfl
  exact hexec

/-! ### The rows of stage 2 -/

/-- Settles O56: the update carries the two fields, and the payload of the row is its fields side by side. -/
theorem grainflowRowWritesItsTwoFields : Obligations.GrainflowRowWritesItsTwoFields := by
  intro pr fl mo ig ts s
  rw [exec, execGrainflow, gfMessage, gfPayload_eq_append, mergeUpdate, apply_gfUpdate, mask_gfUpdate]
  rfl

/-- Settles O57: both rows report, without a mask. -/
theorem grainFlowRejectionsChangeOutputsOnly : Obligations.GrainFlowRejectionsChangeOutputsOnly :=
  fun _ _ _ _ _ => ⟨rfl, rfl⟩

/-- Settles O58: the three rows accept alike, each with its own source; the update carries the three fields, and the payload of
the row is its fields side by side. -/
theorem headerinfoRowsWriteTheirThreeFields : Obligations.HeaderinfoRowsWriteTheirThreeFields := by
  intro pr wd ig ro sp ts s i source hi
  have hexec : exec i s = .next (acceptHeaderInfo pr source wd ig ro sp ts s) := by
    obtain ⟨rfl, rfl⟩ | ⟨rfl, rfl⟩ | ⟨rfl, rfl⟩ := hi <;> rfl
  rw [hexec, acceptHeaderInfo, hiMessage, hiPayload_eq_append, mergeUpdate, apply_hiUpdate, mask_hiUpdate]
  rfl

/-- Settles O59: the four rows report, without a mask. -/
theorem headerInfoRejectionsChangeOutputsOnly : Obligations.HeaderInfoRejectionsChangeOutputsOnly :=
  fun _ _ _ _ _ => ⟨rfl, rfl, rfl, rfl⟩

end Sys2Proof.Proofs
end
